-- ==== Sys2Proof/Word.lean ====
section
/-! DEFINITION. The one data width of the block: a byte is an unsigned integer in 0..255 (R7). -/

namespace Sys2Proof

/-- A byte: "all integers unsigned 8-bit" (R7, R44). -/
abbrev Byte := BitVec 8

/-- A 9-bit count register: `PLEN`, `FLEN`, `RX_CNT`, `d_rem` (R15 to R17, R150). -/
abbrev Count := BitVec 9

end Sys2Proof
end

