-- ==== Sys2Proof/Config.lean ====
section
/-! DEFINITION. What is fixed for one block: the constants of R5, and the values the spec leaves open (R6, R13,
R25, R116, U3), each an opaque constant that no proof can evaluate. -/

namespace Sys2Proof

/-- One item of the receive stream (R13, R42): a received byte; the transport's report that the stream is closed
or timed out; or `Never`, a read that the transport does not answer. -/
inductive RxItem where
  | byte (b : Byte)
  | streamEnd
  | never
  deriving DecidableEq, Repr, Inhabited

namespace Config

/-- `START0` and `START1`, the fixed start bytes `AA AA` (R5). -/
abbrev startByte : Byte := 0xAA#8

/-- `END0` (R5). -/
abbrev endByte0 : Byte := 0x0D#8

/-- `END1` (R5). -/
abbrev endByte1 : Byte := 0x0A#8

/-- `LEN_BIAS`: `length` is the payload length plus 2 (R5). -/
abbrev lenBias : Nat := 2

/-- `MAX_PAYLOAD`: the largest payload `encode` accepts (R5). -/
abbrev maxPayload : Nat := 253

/-- `OVERHEAD`: the frame bytes that are not payload (R5). -/
abbrev overhead : Nat := 8

/-- `TRAILER_AFTER_LEN`: `decode` reads `length + 3` bytes after the length byte (R5). -/
abbrev trailerAfterLen : Nat := 3

/-- The sizes of the three buffers (R40, R49). -/
abbrev txbufSize : Nat := 253

/-- See `txbufSize`. -/
abbrev fbufSize : Nat := 261

/-- See `txbufSize`. -/
abbrev rxbufSize : Nat := 258

/-- FREE VALUE (log 2). The items of `rx` that no input has named: the n-th such item. `rx` is an argument of the
model, universally quantified (R13, D7, U11). -/
opaque rxItem : Nat → RxItem

/-- FREE VALUE (log 3). The transport's answer `connect_ok` to the n-th CONNECT whose answer no input has named
(R116, D12, U11). -/
opaque connectOk : Nat → Bool

/-- FREE VALUE (log 4). What `CMD_ID` holds after the n-th reset until the host writes it: unspecified (R25, U2). -/
opaque cmdIdAtReset : Nat → Byte

/-- FREE VALUE (log 4). As `cmdIdAtReset`, for `SEQ_IN`. -/
opaque seqInAtReset : Nat → Byte

/-- FREE VALUE (log 4). As `cmdIdAtReset`, for `PLEN`. -/
opaque plenAtReset : Nat → Count

/-- FREE VALUE (log 4). As `cmdIdAtReset`, for `TXBUF[i]`: the first argument counts resets, the second is `i`. -/
opaque txbufAtReset : Nat → Nat → Byte

/-- FREE VALUE (log 5). What the n-th host read returns when it reads a byte of `FBUF` or `RXBUF` that is
unspecified: "a host read returns a draw" (U3). -/
opaque unspecifiedByte : Nat → Byte

/-- Physical-layer parameters of the serial link: OPEN, "and no rule reads them" (R6, D22, U14). -/
opaque baud : Nat

/-- See `baud`. -/
opaque bitOrder : Bool

/-- See `baud`. -/
opaque parity : Nat

/-- See `baud`. -/
opaque stopBits : Nat

end Config
end Sys2Proof
end

