-- ==== Sys2Proof/Syntax.lean ====
section
/-! DEFINITION. The instructions: one constructor per row of spec/opcode_table.json. The eight `HOSTOP` rows take
their operands from the operand registers (R15, R70) and so carry none. The `WIRE` row and the four `WIRE_CMD`
rows are lines of R72 about one frame or one command, and carry the bytes of that line. -/

namespace Sys2Proof

/-- The direction a frame travels: "There is one frame format, used in both directions" (R60). -/
inductive FrameDir where
  /-- The block builds the frame (R90). -/
  | built
  /-- The transport delivers the frame and the block reads it (R100). -/
  | received
  deriving DecidableEq, Repr

/-- The two ways a command is sent: "sent by `SEND c, payload` or `XFER c, payload`" (R170). -/
inductive Via where
  | send
  | xfer
  deriving DecidableEq, Repr

/-- The instructions of spec/opcode_table.json, in the table's order. -/
inductive Instr where
  /-- `OP` = 0 (R122). -/
  | reserved0
  /-- `OP` = 1 (R116). -/
  | connect
  /-- `OP` = 2 (R117). -/
  | disconnect
  /-- `OP` = 3 (R118). -/
  | enc
  /-- `OP` = 4 (R119). -/
  | send
  /-- `OP` = 5 (R120). -/
  | recv
  /-- `OP` = 6 (R121). -/
  | xfer
  /-- `OP` = 7 (R122). -/
  | reserved7
  /-- The wire frame with these fields (R60), built or received. -/
  | frame (dir : FrameDir) (cmd seq : Byte) (payload : List Byte)
  /-- `CMD = 0x81` (R171). -/
  | cmdQueryAlarm (via : Via) (payload : List Byte)
  /-- `CMD = 0x8A` (R172). -/
  | cmdClearAlarms (via : Via) (payload : List Byte)
  /-- `CMD = 0xCF` (R173). -/
  | cmdReboot (via : Via) (payload : List Byte)
  /-- Every other `CMD` value (R174). -/
  | cmdOther (cmd : Byte) (via : Via) (payload : List Byte)
  deriving DecidableEq, Repr

end Sys2Proof
end

