-- ==== Sys2Proof/WellFormed.lean ====
section
/-! DEFINITION. Which instruction terms stand for a row of the opcode table with operands the encoding admits. -/

namespace Sys2Proof

/-- The three `CMD` values that have a row of their own (R171 to R173). -/
def namedCmds : List Byte := [0x81#8, 0x8A#8, 0xCF#8]

/-- A payload whose count fits `PLEN`, 9 bits (R15). -/
def countFitsPlen (payload : List Byte) : Bool := payload.length ≤ 511

/-- A frame's payload has at most 253 bytes (R60, R63); a command line's count fits `PLEN` (R15, R72); the default
row is for the 253 values that are not named (R174). -/
def Instr.wf : Instr → Bool
  | .reserved0 => true
  | .connect => true
  | .disconnect => true
  | .enc => true
  | .send => true
  | .recv => true
  | .xfer => true
  | .reserved7 => true
  | .frame _ _ _ payload => payload.length ≤ Config.maxPayload
  | .cmdQueryAlarm _ payload => countFitsPlen payload
  | .cmdClearAlarms _ payload => countFitsPlen payload
  | .cmdReboot _ payload => countFitsPlen payload
  | .cmdOther cmd _ payload => countFitsPlen payload && !namedCmds.contains cmd

end Sys2Proof
end

