-- ==== Sys2Proof/Decode.lean ====
section
/-! DEFINITION. The two encodings of the spec, the host operation code (R70) and the wire frame (R60), and the
command byte of a frame (R67): a decoder total on any bytes that rejects by name, then an encoder written from the
same tables. -/

namespace Sys2Proof

/-! ## The frame's fields -/

/-- `sum(l)`, as a natural number, not reduced (R8). -/
def byteSum (bs : List Byte) : Nat := (bs.map BitVec.toNat).sum

/-- The checksum byte over the summed bytes: their sum modulo 256 (R64). -/
def checksum (body : List Byte) : Byte := BitVec.ofNat 8 (byteSum body)

/-- `LEN = len(payload) + 2` (R63). -/
def lenByte (payload : List Byte) : Byte := BitVec.ofNat 8 (payload.length + Config.lenBias)

/-- The summed bytes of a frame: length, command, sequence, payload (R62). -/
def frameBody (cmd seq : Byte) (payload : List Byte) : List Byte := lenByte payload :: cmd :: seq :: payload

/-- `AA AA | LEN | CMD | SEQ | PAYLOAD... | CHK | 0D 0A` (R60). -/
def frameBytes (cmd seq : Byte) (payload : List Byte) : List Byte :=
  Config.startByte :: Config.startByte ::
    (frameBody cmd seq payload ++ [checksum (frameBody cmd seq payload), Config.endByte0, Config.endByte1])

/-- The frame invariants (R62): exactly when a list of bytes is a valid frame. -/
def validFrame (f : List Byte) : Bool :=
  match f with
  | a0 :: a1 :: len :: rest =>
    let n := len.toNat
    decide (8 ≤ f.length) && a0 == Config.startByte && a1 == Config.startByte && decide (2 ≤ n) &&
      decide (f.length = n + 6) && rest[n]? == some (checksum (len :: rest.take n)) &&
      rest[n + 1]? == some Config.endByte0 && rest[n + 2]? == some Config.endByte1
  | _ => false

/-! ## The words an instruction is given by -/

/-- Where a word is presented: the host's 3-bit `OP` port (R70), a command line named by its `CMD` byte (R67, R72),
or the wire, in one direction or the other (R60). -/
inductive Port where
  | op
  | cmd
  | frameOut
  | frameIn
  deriving DecidableEq, Repr

/-- A word: its port and its bytes, the first one first. -/
structure HostWord where
  port  : Port
  bytes : List Byte
  deriving DecidableEq, Repr

/-- Why bytes are no instruction. -/
inductive DecodeError where
  /-- Fewer bytes than the word needs. -/
  | shortWord
  /-- Bytes left over after the word. -/
  | trailingBytes
  /-- A frame that does not begin `AA AA` (R62). -/
  | badStartMarker
  /-- A frame whose length byte is 0 or 1 (R62). -/
  | badLengthByte
  /-- A frame whose checksum byte is not the sum (R62). -/
  | badChecksum
  /-- A frame that does not finish `0D 0A` (R62). -/
  | badEndMarker
  /-- A command line that names neither SEND nor XFER (log 8). -/
  | badVia
  /-- A command line whose count does not fit `PLEN` (R15). -/
  | badCount
  deriving DecidableEq, Repr

/-! ## Decoding -/

/-- The operation code table (R70). -/
def decodeOp (op : BitVec 3) : Instr :=
  if op = 0#3 then .reserved0
  else if op = 1#3 then .connect
  else if op = 2#3 then .disconnect
  else if op = 3#3 then .enc
  else if op = 4#3 then .send
  else if op = 5#3 then .recv
  else if op = 6#3 then .xfer
  else .reserved7

/-- The command named by a `CMD` byte: the three named rows, then the default row (R67, R171 to R174). -/
def decodeCmd (cmd : Byte) (via : Via) (payload : List Byte) : Instr :=
  if cmd = 0x81#8 then .cmdQueryAlarm via payload
  else if cmd = 0x8A#8 then .cmdClearAlarms via payload
  else if cmd = 0xCF#8 then .cmdReboot via payload
  else .cmdOther cmd via payload

/-- How a command line says SEND or XFER (log 8). -/
def decodeVia (b : Byte) : Option Via :=
  if b = 0#8 then some .send else if b = 1#8 then some .xfer else none

/-- A command line: `CMD`, SEND or XFER, the count (low byte first), the payload (R72, log 8). -/
def decodeCmdLine (bs : List Byte) : Except DecodeError (Instr × List Byte) :=
  match bs with
  | cmd :: via :: lo :: hi :: rest =>
    let n := lo.toNat + 256 * hi.toNat
    match decodeVia via with
    | none => .error .badVia
    | some v =>
      if 511 < n then .error .badCount
      else if rest.length < n then .error .shortWord
      else .ok (decodeCmd cmd v (rest.take n), rest.drop n)
  | _ => .error .shortWord

/-- A valid frame (R62), its end found by counting `LEN + 3` bytes after the length byte (R66). -/
def decodeFrameWord (dir : FrameDir) (bs : List Byte) : Except DecodeError (Instr × List Byte) :=
  match bs with
  | a0 :: a1 :: len :: cmd :: seq :: rest =>
    let n := len.toNat - 2
    if a0 ≠ Config.startByte ∨ a1 ≠ Config.startByte then .error .badStartMarker
    else if len.toNat < 2 then .error .badLengthByte
    else if rest.length < n + 3 then .error .shortWord
    else if rest[n]? ≠ some (checksum (len :: cmd :: seq :: rest.take n)) then .error .badChecksum
    else if rest[n + 1]? ≠ some Config.endByte0 ∨ rest[n + 2]? ≠ some Config.endByte1 then .error .badEndMarker
    else .ok (.frame dir cmd seq (rest.take n), rest.drop (n + 3))
  | _ => .error .shortWord

/-- The `OP` port carries 3 bits: the mask is `0x7` (R70). -/
def decodeOpWord (bs : List Byte) : Except DecodeError (Instr × List Byte) :=
  match bs with
  | b :: rest => .ok (decodeOp (b.setWidth 3), rest)
  | [] => .error .shortWord

/-- The instruction at the head of the bytes presented at a port, with the bytes after it. -/
def decode (port : Port) (bs : List Byte) : Except DecodeError (Instr × List Byte) :=
  match port with
  | .op => decodeOpWord bs
  | .cmd => decodeCmdLine bs
  | .frameOut => decodeFrameWord .built bs
  | .frameIn => decodeFrameWord .received bs

/-- A word that is one instruction and nothing more. -/
def decodeWord (w : HostWord) : Except DecodeError Instr :=
  match decode w.port w.bytes with
  | .error e => .error e
  | .ok (i, []) => .ok i
  | .ok (_, _ :: _) => .error .trailingBytes

/-! ## Encoding -/

/-- The code `OP` of an operation (R70); a line is issued with the code of the operation it names (R72). -/
def encodeOp : Instr → BitVec 3
  | .reserved0 => 0#3
  | .connect => 1#3
  | .disconnect => 2#3
  | .enc => 3#3
  | .send => 4#3
  | .recv => 5#3
  | .xfer => 6#3
  | .reserved7 => 7#3
  | .frame .built _ _ _ => 3#3
  | .frame .received _ _ _ => 5#3
  | .cmdQueryAlarm .send _ => 4#3
  | .cmdQueryAlarm .xfer _ => 6#3
  | .cmdClearAlarms .send _ => 4#3
  | .cmdClearAlarms .xfer _ => 6#3
  | .cmdReboot .send _ => 4#3
  | .cmdReboot .xfer _ => 6#3
  | .cmdOther _ .send _ => 4#3
  | .cmdOther _ .xfer _ => 6#3

/-- See `decodeVia`. -/
def encodeVia : Via → Byte
  | .send => 0#8
  | .xfer => 1#8

/-- See `decodeCmdLine`. -/
def encodeCmdLine (cmd : Byte) (via : Via) (payload : List Byte) : List Byte :=
  cmd :: encodeVia via :: BitVec.ofNat 8 (payload.length % 256) :: BitVec.ofNat 8 (payload.length / 256) :: payload

/-- See `decodeFrameWord`. -/
def framePort : FrameDir → Port
  | .built => .frameOut
  | .received => .frameIn

/-- A host operation's word: one byte that holds its code. -/
def opWord (i : Instr) : HostWord := ⟨.op, [(encodeOp i).setWidth 8]⟩

/-- The word of an instruction. -/
def encode : Instr → HostWord
  | .reserved0 => opWord .reserved0
  | .connect => opWord .connect
  | .disconnect => opWord .disconnect
  | .enc => opWord .enc
  | .send => opWord .send
  | .recv => opWord .recv
  | .xfer => opWord .xfer
  | .reserved7 => opWord .reserved7
  | .frame dir cmd seq payload => ⟨framePort dir, frameBytes cmd seq payload⟩
  | .cmdQueryAlarm via payload => ⟨.cmd, encodeCmdLine 0x81#8 via payload⟩
  | .cmdClearAlarms via payload => ⟨.cmd, encodeCmdLine 0x8A#8 via payload⟩
  | .cmdReboot via payload => ⟨.cmd, encodeCmdLine 0xCF#8 via payload⟩
  | .cmdOther cmd via payload => ⟨.cmd, encodeCmdLine cmd via payload⟩

/-! ## The words of spec/opcode_table.json -/

/-- The first `k` bytes of a table word, the first byte in the low bits. -/
def bytesOfNat : Nat → Nat → List Byte
  | 0, _ => []
  | k + 1, w => BitVec.ofNat 8 w :: bytesOfNat k (w / 256)

/-- The bytes of a table word of the FRAME row. Its `LEN` and `CHK` are no operands: R63 and R64 compute them. A word of
the row's own 64 bits that leaves both 0, which no frame does, stands for the frame with them computed (log 9). -/
def frameOfTable (bs : List Byte) : List Byte :=
  match bs with
  | [a0, a1, len, cmd, seq, chk, e0, e1] =>
    if len = 0#8 ∧ chk = 0#8 then
      a0 :: a1 :: (frameBody cmd seq [] ++ [checksum (frameBody cmd seq []), e0, e1])
    else bs
  | _ => bs

/-- The word a table word stands for (log 9). More than 8 bits: a frame, with its first byte in the low bits, or, as
the row's pattern is written, in the high bits. At most 8 bits: below 8 an operation code, from 8 on a `CMD` byte
with the operand words zero (SEND, empty payload). The default row has no bits: `CMD` byte 0. -/
def tableWord (nbits w : Nat) : HostWord :=
  if 8 < nbits then
    let bs := bytesOfNat (nbits / 8) w
    ⟨.frameOut, frameOfTable (if bs.take 2 = [Config.startByte, Config.startByte] then bs else bs.reverse)⟩
  else if nbits = 0 then ⟨.cmd, [0#8, 0#8, 0#8, 0#8]⟩
  else if w % 256 < 8 then ⟨.op, [BitVec.ofNat 8 w]⟩
  else ⟨.cmd, [BitVec.ofNat 8 w, 0#8, 0#8, 0#8]⟩

/-- What the decoder reads from a table word. -/
def decodeTableWord (nbits w : Nat) : Option Instr :=
  match decodeWord (tableWord nbits w) with
  | .ok i => some i
  | .error _ => none

end Sys2Proof
end

