-- ==== Sys2Proof/Machine/State.lean ====
section
/-! DEFINITION. Every piece of state the spec gives the block (10_state.md, 43_byte_serial_machines.md), the two
parameters it takes from the environment (R23), the inputs that wait to be taken, the faults and refusals, and the
state after reset (R25). -/

namespace Sys2Proof.Machine

/-! ## Small types -/

/-- The four error kinds (R180). -/
inductive ErrorKind where
  | transportNotOpen
  | badHeader
  | truncated
  | invalidArgument
  deriving DecidableEq, Repr

/-- `e_state`: which frame byte is produced next (R142). -/
inductive EState where
  | idle
  | hdr0
  | hdr1
  | len
  | cmd
  | seq
  | pay
  | chk
  | fin0
  | fin1
  deriving DecidableEq, Repr

/-- `d_state`: which part of the frame is expected next (R150). -/
inductive DState where
  | idle
  | hdr0
  | hdr1
  | len
  | body
  deriving DecidableEq, Repr

/-- A byte buffer, as the bytes it holds at their indices: indices strictly rising. An index that is not listed holds
no value the spec states: nothing has written it, or what it held became unspecified (R25, R124, R125). -/
abbrev Memory := List Host.Cell

/-! ## The registers, grouped as the spec groups them -/

/-- The operand registers (R15). The three marks are the model's own: whether the host has written the register since
reset (R212, U2). `TXBUF` needs none, since an unwritten byte is not listed. -/
structure OperandRegs where
  op : BitVec 3
  cmdId : Byte
  cmdIdSet : Bool
  seqIn : Byte
  seqInSet : Bool
  plen : Count
  plenSet : Bool
  txbuf : Memory
  deriving DecidableEq, Repr

/-- The encoder result registers (R16). -/
structure EncoderRegs where
  fbuf : Memory
  flen : Count
  deriving DecidableEq, Repr

/-- The validator flags (R18). -/
structure Flags where
  lenOk : Bool
  chkOk : Bool
  endOk : Bool
  valid : Bool
  deriving DecidableEq, Repr

/-- The decoder result registers (R17) and the flags written with them (R18). -/
structure DecoderRegs where
  rxLen : Byte
  rxbuf : Memory
  rxCnt : Count
  flags : Flags
  deriving DecidableEq, Repr

/-- The registers of the byte-serial encoder (R142). -/
structure EncMachine where
  state : EState
  cmd : Byte
  seq : Byte
  plen : Byte
  idx : Byte
  sum : Byte
  send : Bool
  nolink : Bool
  xRecv : Bool
  deriving DecidableEq, Repr

/-- The registers of the byte-serial decoder (R150). -/
structure DecMachine where
  state : DState
  h0 : Byte
  rem : Count
  sum : Byte
  e0 : Bool
  deriving DecidableEq, Repr

/-- The receive stream (R13). `pos` is `RX_POS`, the block's only state about it. `ahead` lists the items from
`rx[RX_POS]` on that are already fixed; the items after them are free values, of which `draws` have been taken. -/
structure RxStream where
  pos : Nat
  ahead : List RxItem
  draws : Nat
  deriving DecidableEq, Repr

/-- The rest of the environment: the answers to CONNECT that are already fixed (R116), how many free answers have
been taken, and how many resets there have been. -/
structure Env where
  connectAhead : List Bool
  connectDraws : Nat
  resets : Nat
  deriving DecidableEq, Repr

/-! ## Inputs -/

/-- A host write of an operand register (R15, R24). -/
inductive OperandWrite where
  | cmdId (b : Byte)
  | seqIn (b : Byte)
  | plen (n : Count)
  | txbuf (i : Nat) (b : Byte)
  deriving DecidableEq, Repr

/-- The registers the host can read (R24); the others it cannot. -/
inductive ReadReg where
  | seq
  | linkOpen
  | status
  | busy
  | flen
  | fbuf (i : Nat)
  | rxLen
  | rxCnt
  | rxbuf (i : Nat)
  | lenOk
  | chkOk
  | endOk
  | valid
  deriving DecidableEq, Repr

/-- What the outside world does to the block, one item a step (R226). The host: presents a word whose operation is
carried out whole (R115) or byte by byte (R141), writes an operand, reads a register, waits until `BUSY = 0`, lets the
block take one step (`elapse`), asserts reset, at any time (R210). The transport: fixes the next items of `rx` (R13),
fixes an answer to CONNECT (R116). -/
inductive Input where
  | present (w : HostWord)
  | presentSerial (op : BitVec 3)
  | write (w : OperandWrite)
  | read (r : ReadReg)
  | waitDone
  | elapse
  | reset
  | deliver (items : List RxItem)
  | answerConnect (ok : Bool)
  deriving DecidableEq, Repr

/-- What a host read returned. -/
structure Observation where
  reg : ReadReg
  value : Nat
  deriving DecidableEq, Repr

/-- The state of the block and of its environment. -/
structure State where
  /-- `SEQ` (R10). -/
  seq : Byte
  /-- `LINK_OPEN` (R11). -/
  linkOpen : Bool
  /-- `TX` (R12). -/
  tx : List Byte
  /-- `RX_POS` and the receive stream (R13). -/
  rx : RxStream
  /-- `STATUS` (R14). -/
  status : BitVec 3
  /-- `BUSY` (R19). -/
  busy : Bool
  /-- The operand registers (R15). -/
  opr : OperandRegs
  /-- `FBUF`, `FLEN` (R16). -/
  enc : EncoderRegs
  /-- `RX_LEN`, `RXBUF`, `RX_CNT` (R17) and the flags (R18). -/
  dec : DecoderRegs
  /-- The encoder machine (R142). -/
  em : EncMachine
  /-- The decoder machine (R150). -/
  dm : DecMachine
  /-- The environment's other answers (R23). -/
  env : Env
  /-- The inputs not yet taken, in order (the model's own). -/
  inputs : List Input
  /-- What host reads have returned, in order (the model's own). -/
  observed : List Observation
  /-- Set when an operation reads an operand register the host never wrote: the run is then "not a good run" (U2,
  the model's own record of that fault). -/
  hostFault : Bool
  deriving DecidableEq, Repr

/-- How a step can stop. -/
inductive Fault where
  /-- Raised by the byte-serial decoder when the next item of `rx` is `Never`: the read does not return, no step is
  enabled, "and only a reset leaves it" (R42, R218). Safe. -/
  | readNeverReturns
  /-- Raised by an access to `TXBUF`, `FBUF` or `RXBUF` at an index the buffer does not have (R49). Safe. -/
  | bufferIndexOutOfRange
  /-- Raised when `BUSY = 1` and both machines are idle, a state no run reaches: the spec gives it no step. Safe. -/
  | noStepEnabled
  deriving DecidableEq, Repr

/-- What a step declines to give a meaning. -/
inductive Refusal where
  /-- Raised by exec's arm of an instruction that has no meaning yet. Safe. -/
  | notModelled (mnemonic : String)
  /-- Raised by step when the bytes presented are no action of the host (R226), with the reason; never for bytes that
  the transport delivers. Safe. -/
  | undecodable (e : DecodeError)
  /-- Raised by a host write of an operand register while `BUSY = 1`: "the spec gives it no meaning" (U4). Safe. -/
  | operandWriteWhileBusy
  /-- Raised by a host read of a result register while `BUSY = 1`, which the host must not do (R213). Safe. -/
  | resultReadWhileBusy
  /-- Raised by a command line whose count does not fit `PLEN`, which decoding never yields (R15). Safe. -/
  | countNotExpressible
  /-- Raised by a received frame whose payload is too long for any frame (R91), which decoding never yields. Safe. -/
  | noSuchFrame
  deriving DecidableEq, Repr

/-- All four flags 0 (R18). -/
def Flags.clear : Flags := ⟨false, false, false, false⟩

/-- Right after reset (R25). Values the spec leaves unspecified are named in log 1. -/
def State.reset : State where
  seq := 0#8
  linkOpen := false
  tx := []
  rx := { pos := 0, ahead := [], draws := 0 }
  status := 0#3
  busy := false
  opr := { op := 0#3, cmdId := 0#8, cmdIdSet := false, seqIn := 0#8, seqInSet := false, plen := 0#9,
           plenSet := false, txbuf := [] }
  enc := { fbuf := [], flen := 0#9 }
  dec := { rxLen := 0#8, rxbuf := [], rxCnt := 0#9, flags := Flags.clear }
  em := { state := .idle, cmd := 0#8, seq := 0#8, plen := 0#8, idx := 0#8, sum := 0#8, send := false,
          nolink := false, xRecv := false }
  dm := { state := .idle, h0 := 0#8, rem := 0#9, sum := 0#8, e0 := false }
  env := { connectAhead := [], connectDraws := 0, resets := 0 }
  inputs := []
  observed := []
  hostFault := false

end Sys2Proof.Machine
end

