-- ==== Sys2Proof/Machine/Ops.lean ====
section
/-! DEFINITION. The named operations over buffers, streams and registers that the meanings share, among them raising
an error, which is this block's taking of an exception (R180, R187). There is nothing to return from (R188). -/

namespace Sys2Proof.Machine

/-! ## Buffers -/

/-- The byte at an index, if it holds one. -/
def Memory.read : Memory → Nat → Option Byte
  | [], _ => none
  | (k, v) :: m, a => if k = a then some v else Memory.read m a

/-- `BUF[a] <- b` (R8), keeping the indices strictly rising. -/
def Memory.write : Memory → Nat → Byte → Memory
  | [], a, b => [(a, b)]
  | (k, v) :: m, a, b =>
    if a < k then (a, b) :: (k, v) :: m
    else if a = k then (a, b) :: m
    else (k, v) :: Memory.write m a b

/-- The buffer that holds a list of bytes from an index on, and nothing else. -/
def Memory.ofBytes : Nat → List Byte → Memory
  | _, [] => []
  | a, b :: bs => (a, b) :: Memory.ofBytes (a + 1) bs

/-- `BUF[a + i] <- bs[i]` for every byte of a list. -/
def Memory.writeBytes : Memory → Nat → List Byte → Memory
  | m, _, [] => m
  | m, a, b :: bs => Memory.writeBytes (Memory.write m a b) (a + 1) bs

/-- The first `n` bytes, `slice(BUF, 0, n)` (R8), where all of them hold a value. -/
def Memory.bytes (m : Memory) (n : Nat) : List (Option Byte) := (List.range n).map (Memory.read m)

/-- The canonical form: indices strictly rising from `lo` on, below `hi`. -/
def Memory.wfFrom : Nat → Nat → Memory → Bool
  | _, _, [] => true
  | lo, hi, (k, _) :: m => decide (lo ≤ k) && decide (k < hi) && Memory.wfFrom (k + 1) hi m

/-- The canonical form of a buffer of a given size. -/
def Memory.wf (size : Nat) (m : Memory) : Bool := Memory.wfFrom 0 size m

/-! ## Status -/

/-- The codes of the error kinds (R14, R180). -/
def ErrorKind.code : ErrorKind → BitVec 3
  | .transportNotOpen => 1#3
  | .badHeader => 2#3
  | .truncated => 3#3
  | .invalidArgument => 4#3

/-- `OK` (R14). -/
def statusOk : BitVec 3 := 0#3

/-- The write of `STATUS` with which an operation completes (R115). -/
def setStatus (v : BitVec 3) (s : State) : State := { s with status := v }

/-- `STATUS <- OK`. -/
def complete (s : State) : State := setStatus statusOk s

/-- `raise K`: the operation ends, and `STATUS` takes the code of the kind (R180). The block saves nothing else,
transfers control nowhere and changes no mode (R187); the other writes an operation lists for the error are made by
the operation. -/
def raise (k : ErrorKind) (s : State) : State := setStatus k.code s

/-- The completion of an operation that ended with an error kind or with none (R115). -/
def finish (r : Option ErrorKind) (s : State) : State :=
  match r with
  | some k => raise k s
  | none => complete s

/-! ## Session and streams -/

/-- `LINK_OPEN <- b` (R11). -/
def setLink (b : Bool) (s : State) : State := { s with linkOpen := b }

/-- `SEQ <- (SEQ + 1) mod 256` (R10, R73). -/
def bumpSeq (s : State) : State := { s with seq := s.seq + 1#8 }

/-- `TxWrite(bs)` (R41). -/
def txWrite (bs : List Byte) (s : State) : State := { s with tx := s.tx ++ bs }

/-- The receive stream after some of it was taken. -/
def setRx (r : RxStream) (s : State) : State := { s with rx := r }

/-- The item `rx[RX_POS]`, the fixed items after it, and the count of free items taken: where no item is fixed the next
one is a free value (R13). -/
def RxStream.peek (r : RxStream) : RxItem × List RxItem × Nat :=
  match r.ahead with
  | it :: rest => (it, rest, r.draws)
  | [] => (Config.rxItem r.draws, [], r.draws + 1)

/-- `RxItem()` (R42). On `Never` the item stays where it is: the read does not return (log 6). -/
def RxStream.item (r : RxStream) : RxItem × RxStream :=
  match r.peek with
  | (.byte b, rest, draws) => (.byte b, { pos := r.pos + 1, ahead := rest, draws := draws })
  | (.streamEnd, rest, draws) => (.streamEnd, { pos := r.pos + 1, ahead := rest, draws := draws })
  | (.never, rest, draws) => (.never, { pos := r.pos, ahead := .never :: rest, draws := draws })

/-- How a read of several bytes ended: with all of them, with `End`, or not at all. -/
inductive ReadEnd where
  | full
  | ended
  | hangs
  deriving DecidableEq, Repr

/-- `RxRead(n)` (R43): the bytes obtained, how the read ended, the stream after it. -/
def RxStream.read : Nat → RxStream → List Byte × ReadEnd × RxStream
  | 0, r => ([], .full, r)
  | n + 1, r =>
    match r.item with
    | (.byte b, r1) =>
      let (bs, e, r2) := RxStream.read n r1
      (b :: bs, e, r2)
    | (.streamEnd, r1) => ([], .ended, r1)
    | (.never, r1) => ([], .hangs, r1)

/-- `draw connect_ok` (R116). -/
def drawConnect (s : State) : Bool × State :=
  match s.env.connectAhead with
  | b :: rest => (b, { s with env := { s.env with connectAhead := rest } })
  | [] => (Config.connectOk s.env.connectDraws, { s with env := { s.env with connectDraws := s.env.connectDraws + 1 } })

/-- The transport fixes further items of `rx` (R226). -/
def deliver (items : List RxItem) (s : State) : State := { s with rx := { s.rx with ahead := s.rx.ahead ++ items } }

/-! ## Result registers of the encoder -/

/-- `StoreFrame(r)` (R124): the bytes past the frame, or all of them, become unspecified. -/
def storeFrame (r : Except ErrorKind (List Byte)) (s : State) : State :=
  match r with
  | .ok f => { s with enc := { fbuf := Memory.ofBytes 0 f, flen := BitVec.ofNat 9 f.length } }
  | .error _ => { s with enc := { fbuf := [], flen := 0#9 } }

/-! ## Issue -/

/-- An operation issued while `BUSY = 1` is ignored; otherwise it is carried out (R115, R213). -/
def whenIdle (op : State → State) (s : State) : Host.Outcome State Fault Refusal :=
  if s.busy then .next s else .next (op s)

/-- Reset (R210): every piece of state at the value of R25. The run that begins is under a receive sequence and
CONNECT answers of its own (R225), so the items and answers fixed before it are dropped (log 7); the counters of free
values go on, so that the new run's are not those of the old one. -/
def resetBy (s : State) : State :=
  { State.reset with
    rx := { pos := 0, ahead := [], draws := s.rx.draws }
    env := { connectAhead := [], connectDraws := s.env.connectDraws, resets := s.env.resets + 1 }
    inputs := s.inputs
    observed := s.observed }

end Sys2Proof.Machine
end

