-- ==== Sys2Proof/Machine/Flags.lean ====
section
/-! DEFINITION. The checksum validator: the four advisory flags of a received frame (R104), and their byte-serial
update (R152). -/

namespace Sys2Proof.Machine

/-- `Frame(L, T)`: the received length byte and the `L + 3` bytes that followed it (R100, R106). -/
structure Frame where
  len : Byte
  trail : List Byte
  deriving DecidableEq, Repr

/-- The flags of a frame (R104). -/
def validate (f : Frame) : Flags :=
  let n := f.len.toNat
  let lenOk := decide (2 ≤ n)
  let chkOk := f.trail[n]? == some (checksum (f.len :: f.trail.take n))
  let endOk := f.trail[n + 1]? == some Config.endByte0 && f.trail[n + 2]? == some Config.endByte1
  { lenOk := lenOk, chkOk := chkOk, endOk := endOk, valid := lenOk && chkOk && endOk }

/-- The validator update for the byte `b` stored at index `i` of `T` (R152): exactly one line applies. -/
def validateByte (i : Nat) (b : Byte) (len : Byte) (m : DecMachine) (f : Flags) : DecMachine × Flags :=
  let n := len.toNat
  if i < n then ({ m with sum := m.sum + b }, f)
  else if i = n then (m, { f with chkOk := b == m.sum })
  else if i = n + 1 then ({ m with e0 := b == Config.endByte0 }, f)
  else if i = n + 2 then (m, { f with endOk := m.e0 && b == Config.endByte1 })
  else (m, f)

/-- The flags when the last byte has been stored (R154). -/
def validateDone (len : Byte) (f : Flags) : Flags :=
  let lenOk := decide (2 ≤ len.toNat)
  { f with lenOk := lenOk, valid := lenOk && f.chkOk && f.endOk }

end Sys2Proof.Machine
end

