-- ==== Sys2Proof/Machine/Decoder.lean ====
section
/-! DEFINITION. The decoder function `decode` (41_decode.md), the views of its result, and the write of that result
to the decoder result registers (R125). -/

namespace Sys2Proof.Machine

/-! ## The views of a frame (R65, R106), which have no value where the spec leaves them undefined -/

/-- `command_id(F)`, defined when `L >= 2`. -/
def Frame.commandId (f : Frame) : Option Byte := if 2 ≤ f.len.toNat then f.trail[0]? else none

/-- `sequence(F)`, defined when `L >= 2`. -/
def Frame.sequence (f : Frame) : Option Byte := if 2 ≤ f.len.toNat then f.trail[1]? else none

/-- `payload(F)`, defined when `L >= 2`. -/
def Frame.payload (f : Frame) : Option (List Byte) :=
  if 2 ≤ f.len.toNat then some ((f.trail.drop 2).take (f.len.toNat - 2)) else none

/-- `checksum(F)`. -/
def Frame.checksumByte (f : Frame) : Option Byte := f.trail[f.len.toNat]?

/-- `end(F)`. -/
def Frame.endBytes (f : Frame) : List Byte := (f.trail.drop (f.len.toNat + 1)).take 2

/-! ## `decode` -/

/-- What `decode` comes to: a frame, an error, or a read that never returns, with the part of the frame it waits for
(R100, R42). -/
inductive DecodeResult where
  | frame (f : Frame)
  | error (k : ErrorKind)
  | hangs (at_ : DState)
  deriving DecidableEq, Repr

/-- `decode()` on the receive stream (R100). -/
def RxStream.decode (r : RxStream) : DecodeResult × RxStream :=
  match RxStream.read 2 r with
  | (_, .ended, r1) => (.error .truncated, r1)
  | (h, .hangs, r1) => (.hangs (if h.isEmpty then .hdr0 else .hdr1), r1)
  | (h, .full, r1) =>
    if h ≠ [Config.startByte, Config.startByte] then (.error .badHeader, r1)
    else
      match RxStream.read 1 r1 with
      | (_, .ended, r2) => (.error .truncated, r2)
      | (_, .hangs, r2) => (.hangs .len, r2)
      | (l, .full, r2) =>
        let len := l.headD 0#8
        match RxStream.read (len.toNat + Config.trailerAfterLen) r2 with
        | (_, .ended, r3) => (.error .truncated, r3)
        | (_, .hangs, r3) => (.hangs .body, r3)
        | (t, .full, r3) => (.frame ⟨len, t⟩, r3)

/-- `decode` on a finite list of bytes followed by `End`, as far as one `decode` can read (R110). -/
def decodeBytes (bs : List Byte) : DecodeResult :=
  (RxStream.decode ⟨0, bs.map RxItem.byte ++ [RxItem.streamEnd], 0⟩).1

/-! ## Result registers of the decoder -/

/-- The decoder result registers. -/
def setDec (d : DecoderRegs) (s : State) : State := { s with dec := d }

/-- The decoder result registers with no frame in them: the counts and the flags 0 (R125). -/
def noFrame (rxbuf : Memory) : DecoderRegs :=
  { rxLen := 0#8, rxbuf := rxbuf, rxCnt := 0#9, flags := Flags.clear }

/-- `StoreDecode(Frame(L, T))` (R125). -/
def storeReceived (f : Frame) (s : State) : State :=
  setDec { rxLen := f.len, rxbuf := Memory.ofBytes 0 f.trail, rxCnt := BitVec.ofNat 9 f.trail.length,
           flags := validate f } s

/-- `StoreDecode` of an error kind (R125): all of `RXBUF` becomes unspecified. -/
def storeNoFrame (s : State) : State := setDec (noFrame []) s

end Sys2Proof.Machine
end

