-- ==== Sys2Proof/Machine/Operands.lean ====
section
/-! DEFINITION. The operand registers: how the host writes them, and what an operation samples from them when it is
issued (R15, R48, R212). -/

namespace Sys2Proof.Machine

/-! ## Sampling

A register the host has not written since reset is unspecified (R25), so an operation that reads it computes with a
free value, and the run is marked (log 4). -/

/-- The `CMD_ID` operand. -/
def sampleCmdId (s : State) : Byte :=
  if s.opr.cmdIdSet then s.opr.cmdId else Config.cmdIdAtReset s.env.resets

/-- The `SEQ_IN` operand. -/
def sampleSeqIn (s : State) : Byte :=
  if s.opr.seqInSet then s.opr.seqIn else Config.seqInAtReset s.env.resets

/-- The `PLEN` operand. -/
def samplePlen (s : State) : Count :=
  if s.opr.plenSet then s.opr.plen else Config.plenAtReset s.env.resets

/-- `TXBUF[i]`. -/
def sampleTxByte (s : State) (i : Nat) : Byte :=
  match Memory.read s.opr.txbuf i with
  | some b => b
  | none => Config.txbufAtReset s.env.resets i

/-- `payload = slice(TXBUF, 0, PLEN)` (R15). -/
def samplePayload (s : State) : List Byte := (List.range (samplePlen s).toNat).map (sampleTxByte s)

/-- `PLEN > 253`, for which the payload is not read at all (R15). -/
def plenTooLong (s : State) : Bool := Config.maxPayload < (samplePlen s).toNat

/-- Whether an operation reads an operand the host has not written (R212). `PLEN` decides; when it exceeds 253
nothing else is read. -/
def readsUnwritten (needsSeqIn : Bool) (s : State) : Bool :=
  !s.opr.plenSet ||
    (!plenTooLong s &&
      (!s.opr.cmdIdSet || (needsSeqIn && !s.opr.seqInSet) ||
        (List.range (samplePlen s).toNat).any fun i => (Memory.read s.opr.txbuf i).isNone))

/-- The record of a host fault (U2). -/
def chargeHost (needsSeqIn : Bool) (s : State) : State :=
  { s with hostFault := s.hostFault || readsUnwritten needsSeqIn s }

/-! ## Host writes -/

/-- The operand registers. -/
def setOpr (o : OperandRegs) (s : State) : State := { s with opr := o }

/-- The host presents a value of `OP` (R70, R115). -/
def setOp (op : BitVec 3) (s : State) : State := setOpr { s.opr with op := op } s

/-- A host write of an operand register (R15); `TXBUF` has indices 0..252 (R49). -/
def writeOperand (w : OperandWrite) (s : State) : Host.Outcome State Fault Refusal :=
  match w with
  | .cmdId b => .next (setOpr { s.opr with cmdId := b, cmdIdSet := true } s)
  | .seqIn b => .next (setOpr { s.opr with seqIn := b, seqInSet := true } s)
  | .plen n => .next (setOpr { s.opr with plen := n, plenSet := true } s)
  | .txbuf i b =>
    if i < Config.txbufSize then .next (setOpr { s.opr with txbuf := Memory.write s.opr.txbuf i b } s)
    else .fault .bufferIndexOutOfRange

/-- The register writes of a command line (R72): `CMD_ID <- cmd`, `PLEN <- count`, `TXBUF[i] <- pi`. A payload longer
than `TXBUF` has no place there and is not read either; the line then loads `PLEN` and `CMD_ID` only (log 8). -/
def loadCommand (cmd : Byte) (payload : List Byte) (s : State) : State :=
  setOpr
    { s.opr with
      cmdId := cmd
      cmdIdSet := true
      plen := BitVec.ofNat 9 payload.length
      plenSet := true
      txbuf :=
        if payload.length ≤ Config.txbufSize then Memory.writeBytes s.opr.txbuf 0 payload else s.opr.txbuf } s

/-- The further register write of an `ENC` line (R72): `SEQ_IN <- seq`. -/
def loadSeqIn (seq : Byte) (s : State) : State := setOpr { s.opr with seqIn := seq, seqInSet := true } s

end Sys2Proof.Machine
end

