-- ==== Sys2Proof/Machine/Encoder.lean ====
section
/-! DEFINITION. The encoder function `encode` (40_encode.md), and its application to the operands an operation
samples (R118, R119). -/

namespace Sys2Proof.Machine

/-- `encode(command_id, sequence, payload)` (R90), defined on every integer so that its range checks have a meaning
(D23). -/
def encodeFrame (commandId sequence : Int) (payload : List Byte) : Except ErrorKind (List Byte) :=
  if ¬(0 ≤ commandId ∧ commandId ≤ 255) then .error .invalidArgument
  else if ¬(0 ≤ sequence ∧ sequence ≤ 255) then .error .invalidArgument
  else if Config.maxPayload < payload.length then .error .invalidArgument
  else .ok (frameBytes (BitVec.ofInt 8 commandId) (BitVec.ofInt 8 sequence) payload)

/-- The `encode` of an ENC, SEND or XFER: refused at once when `PLEN > 253` (R118, R119). -/
def encodeOperands (seq : Byte) (s : State) : Except ErrorKind (List Byte) :=
  if plenTooLong s then .error .invalidArgument
  else encodeFrame (sampleCmdId s).toNat seq.toNat (samplePayload s)

end Sys2Proof.Machine
end

