-- ==== Sys2Proof/Machine/Session.lean ====
section
/-! DEFINITION. The host operations (42_session_ops.md), each one atomic transition (R46). -/

namespace Sys2Proof.Machine

/-! ## The bodies, at `BUSY = 0` -/

/-- A reserved code (R122). -/
def reservedOp (s : State) : State := raise .invalidArgument s

/-- `CONNECT` (R116). -/
def connectOp (s : State) : State :=
  if s.linkOpen then complete s
  else
    let (ok, s1) := drawConnect s
    if ok then complete (setLink true s1) else raise .transportNotOpen s1

/-- `DISCONNECT` (R117). -/
def disconnectOp (s : State) : State := complete (setLink false s)

/-- `ENC` (R118). -/
def encOp (s : State) : State :=
  let r := encodeOperands (sampleSeqIn s) s
  let s1 := storeFrame r (chargeHost true s)
  match r with
  | .error k => raise k s1
  | .ok _ => complete s1

/-- `SEND` up to its write of `STATUS`: the error it ends with, if any, and the state (R119). -/
def sendHalf (s : State) : Option ErrorKind × State :=
  let r := encodeOperands s.seq s
  let s1 := storeFrame r (chargeHost false s)
  match r with
  | .error k => (some k, s1)
  | .ok f => if s.linkOpen then (none, bumpSeq (txWrite f s1)) else (some .transportNotOpen, s1)

/-- `SEND` (R119). -/
def sendOp (s : State) : State :=
  let (r, s1) := sendHalf s
  finish r s1

/-- An operation whose read never returns: it does not complete, `STATUS` is not written, `BUSY` stays 1 (R42, R218). -/
def hangAt (d : DState) (s : State) : State := { s with busy := true, dm := { s.dm with state := d } }

/-- `RECV` (R120). -/
def recvOp (s : State) : State :=
  if s.linkOpen then
    match RxStream.decode s.rx with
    | (.frame f, r) => complete (storeReceived f (setRx r s))
    | (.error k, r) => raise k (storeNoFrame (setRx r s))
    | (.hangs d, r) => hangAt d (setRx r s)
  else raise .transportNotOpen (storeNoFrame s)

/-- `XFER`: SEND and, if that succeeded, RECV (R121). `STATUS` is written once, at the finish (R14). -/
def xferOp (s : State) : State :=
  match sendHalf s with
  | (some k, s1) => raise k s1
  | (none, s1) => recvOp s1

/-! ## The meanings -/

/-- `OP` = 0 (R122). -/
def execReserved0 (s : State) : Host.Outcome State Fault Refusal := whenIdle reservedOp s

/-- `OP` = 1 (R116). -/
def execConnect (s : State) : Host.Outcome State Fault Refusal := whenIdle connectOp s

/-- `OP` = 2 (R117). -/
def execDisconnect (s : State) : Host.Outcome State Fault Refusal := whenIdle disconnectOp s

/-- `OP` = 3 (R118). -/
def execEnc (s : State) : Host.Outcome State Fault Refusal := whenIdle encOp s

/-- `OP` = 4 (R119). -/
def execSend (s : State) : Host.Outcome State Fault Refusal := whenIdle sendOp s

/-- `OP` = 5 (R120). -/
def execRecv (s : State) : Host.Outcome State Fault Refusal := whenIdle recvOp s

/-- `OP` = 6 (R121). -/
def execXfer (s : State) : Host.Outcome State Fault Refusal := whenIdle xferOp s

/-- `OP` = 7 (R122). -/
def execReserved7 (s : State) : Host.Outcome State Fault Refusal := whenIdle reservedOp s

end Sys2Proof.Machine
end

