-- ==== Sys2Proof/Machine/Wire.lean ====
section
/-! DEFINITION. The rows about the wire: a frame in either direction (R60) and the commands (44_wire_commands.md). A
command is sent by `SEND c, payload` or `XFER c, payload`, and the block does nothing different for any `c` (R170). -/

namespace Sys2Proof.Machine

/-- The line `SEND cmd, payload` or `XFER cmd, payload` (R72): it writes operand registers, so it has no meaning while
`BUSY = 1` (U4). -/
def commandLine (cmd : Byte) (via : Via) (payload : List Byte) (s : State) : Host.Outcome State Fault Refusal :=
  if s.busy then .refused .operandWriteWhileBusy
  else if 511 < payload.length then .refused .countNotExpressible
  else
    match via with
    | .send => .next (sendOp (setOp 4#3 (loadCommand cmd payload s)))
    | .xfer => .next (xferOp (setOp 6#3 (loadCommand cmd payload s)))

/-- The line `ENC cmd, seq, payload` (R72). -/
def encLine (cmd seq : Byte) (payload : List Byte) (s : State) : Host.Outcome State Fault Refusal :=
  if s.busy then .refused .operandWriteWhileBusy
  else if 511 < payload.length then .refused .countNotExpressible
  else .next (encOp (setOp 3#3 (loadSeqIn seq (loadCommand cmd payload s))))

/-- The transport delivers items, behind whatever waits already (R217), and the host issues RECV; if `BUSY = 1` the
items wait and the RECV is ignored. -/
def receiveItems (items : List RxItem) (s : State) : Host.Outcome State Fault Refusal :=
  let s1 := deliver items s
  if s.busy then .next s1 else .next (recvOp (setOp 5#3 s1))

/-- The bytes of a frame, received. -/
def receiveFrame (cmd seq : Byte) (payload : List Byte) (s : State) : Host.Outcome State Fault Refusal :=
  match encodeFrame cmd.toNat seq.toNat payload with
  | .error _ => .refused .noSuchFrame
  | .ok f => receiveItems (f.map RxItem.byte) s

/-- The items of a list of bytes as they come off the wire: the bytes, and, when they are too short for one `decode`,
the `End` that R110 puts behind a finite list (log 22). -/
def wireItems (bs : List Byte) : List RxItem :=
  match decodeBytes bs with
  | .error .truncated => bs.map RxItem.byte ++ [.streamEnd]
  | _ => bs.map RxItem.byte

/-- Received bytes that are no valid frame are received all the same: a wrong start is `BadHeader` (R101), too few bytes
are `Truncated` (R102), and anything else is a frame with its flags (R71, R104, R105). -/
def receiveBytes (bs : List Byte) (s : State) : Host.Outcome State Fault Refusal := receiveItems (wireItems bs) s

/-- FRAME (R60): built by `encode` (R90), or delivered and read by `decode` (R100). -/
def execFrame (dir : FrameDir) (cmd seq : Byte) (payload : List Byte) (s : State) :
    Host.Outcome State Fault Refusal :=
  match dir with
  | .built => encLine cmd seq payload s
  | .received => receiveFrame cmd seq payload s

/-- CMD_QUERY_ALARM (R171). -/
def execCmdQueryAlarm (via : Via) (payload : List Byte) (s : State) : Host.Outcome State Fault Refusal :=
  commandLine 0x81#8 via payload s

/-- CMD_CLEAR_ALARMS (R172). -/
def execCmdClearAlarms (via : Via) (payload : List Byte) (s : State) : Host.Outcome State Fault Refusal :=
  commandLine 0x8A#8 via payload s

/-- CMD_REBOOT (R173). -/
def execCmdReboot (via : Via) (payload : List Byte) (s : State) : Host.Outcome State Fault Refusal :=
  commandLine 0xCF#8 via payload s

/-- CMD_OTHER (R174). -/
def execCmdOther (cmd : Byte) (via : Via) (payload : List Byte) (s : State) : Host.Outcome State Fault Refusal :=
  commandLine cmd via payload s

end Sys2Proof.Machine
end

