-- ==== Sys2Proof/Machine/Dispatch.lean ====
section
/-! DEFINITION. Every instruction's meaning, one arm per constructor. -/

namespace Sys2Proof.Machine

def exec (i : Instr) (s : State) : Host.Outcome State Fault Refusal :=
  match i with
  | .reserved0 => Sys2Proof.Machine.execReserved0 s
  | .connect => Sys2Proof.Machine.execConnect s
  | .disconnect => Sys2Proof.Machine.execDisconnect s
  | .enc => Sys2Proof.Machine.execEnc s
  | .send => Sys2Proof.Machine.execSend s
  | .recv => Sys2Proof.Machine.execRecv s
  | .xfer => Sys2Proof.Machine.execXfer s
  | .reserved7 => Sys2Proof.Machine.execReserved7 s
  | .frame dir cmd seq payload => Sys2Proof.Machine.execFrame dir cmd seq payload s
  | .cmdQueryAlarm via payload => Sys2Proof.Machine.execCmdQueryAlarm via payload s
  | .cmdClearAlarms via payload => Sys2Proof.Machine.execCmdClearAlarms via payload s
  | .cmdReboot via payload => Sys2Proof.Machine.execCmdReboot via payload s
  | .cmdOther cmd via payload => Sys2Proof.Machine.execCmdOther cmd via payload s

end Sys2Proof.Machine
end

