-- ==== Sys2Proof/Machine/Serial.lean ====
section
/-! DEFINITION. The byte-serial realisation (43_byte_serial_machines.md): the issue step, the encoder step and the
decoder step. -/

namespace Sys2Proof.Machine

/-! ## The issue step -/

/-- The encoder machine. -/
def setEm (m : EncMachine) (s : State) : State := { s with em := m }

/-- The decoder machine. -/
def setDm (m : DecMachine) (s : State) : State := { s with dm := m }

/-- `BUSY`. -/
def setBusy (b : Bool) (s : State) : State := { s with busy := b }

/-- `RX_LEN`, `RX_CNT` and the flags cleared, `RXBUF` left as it is (R141, R145, R153). -/
def clearDec (s : State) : State := setDec (noFrame s.dec.rxbuf) s

/-- `FLEN <- 0`, `FBUF` left as it is (R141). -/
def clearEnc (s : State) : State := { s with enc := { s.enc with flen := 0#9 } }

/-- The issue of ENC, SEND or XFER (R141): `isEnc` says `OP = 3`, `isXfer` says `OP = 6`. -/
def issueEncode (isEnc isXfer : Bool) (s : State) : State :=
  let s1 := clearEnc (chargeHost isEnc s)
  if plenTooLong s then raise .invalidArgument s1
  else
    setBusy true (setEm
      { s.em with
        state := .hdr0
        cmd := sampleCmdId s
        seq := if isEnc then sampleSeqIn s else s.seq
        plen := (samplePlen s).setWidth 8
        send := !isEnc && s.linkOpen
        nolink := !isEnc && !s.linkOpen
        xRecv := isXfer && s.linkOpen } s1)

/-- The issue of RECV (R141). -/
def issueDecode (s : State) : State :=
  let s1 := clearDec s
  if s.linkOpen then setBusy true (setDm { s.dm with state := .hdr0 } s1) else raise .transportNotOpen s1

/-- The issue step, at `BUSY = 0` (R141). -/
def issueSerial (op : BitVec 3) (s : State) : State :=
  match decodeOp op with
  | .connect => connectOp s
  | .disconnect => disconnectOp s
  | .enc => issueEncode true false s
  | .send => issueEncode false false s
  | .xfer => issueEncode false true s
  | .recv => issueDecode s
  | .reserved0 => reservedOp s
  | .reserved7 => reservedOp s
  | .frame _ _ _ _ => s
  | .cmdQueryAlarm _ _ => s
  | .cmdClearAlarms _ _ => s
  | .cmdReboot _ _ => s
  | .cmdOther _ _ _ => s

/-! ## The encoder step -/

/-- `emit(b)` (R143) and then what the step does further; `FBUF` has indices 0..260 (R49). -/
def emit (b : Byte) (further : State → State) (s : State) : Host.Outcome State Fault Refusal :=
  if s.enc.flen.toNat < Config.fbufSize then
    .next (further
      { s with
        enc := { fbuf := Memory.write s.enc.fbuf s.enc.flen.toNat b, flen := s.enc.flen + 1#9 }
        tx := if s.em.send then s.tx ++ [b] else s.tx })
  else .fault .bufferIndexOutOfRange

/-- The encoder moves on. -/
def encTo (e : EState) (s : State) : State := setEm { s.em with state := e } s

/-- A byte is added to `e_sum`, the carry discarded (R144). -/
def addSum (b : Byte) (s : State) : State := setEm { s.em with sum := s.em.sum + b } s

/-- Encoder completion (R145). -/
def encDone (s : State) : State :=
  let s1 := encTo .idle s
  if s.em.nolink then setBusy false (raise .transportNotOpen s1)
  else if s.em.send then
    let s2 := bumpSeq s1
    if s.em.xRecv then setDm { s2.dm with state := .hdr0 } (clearDec s2) else setBusy false (complete s2)
  else setBusy false (complete s1)

/-- The state after the `SEQ` byte: the payload follows if there is one (R144). -/
def afterSeq (s : State) : State :=
  setEm { s.em with idx := 0#8, state := if 0 < s.em.plen.toNat then .pay else .chk } s

/-- The state after a payload byte (R144). -/
def afterPay (s : State) : State :=
  let idx := s.em.idx + 1#8
  setEm { s.em with idx := idx, state := if idx.toNat < s.em.plen.toNat then .pay else .chk } s

/-- The encoder step, taken when `e_state` is not `E_IDLE` (R144). -/
def encStep (s : State) : Host.Outcome State Fault Refusal :=
  match s.em.state with
  | .idle => .fault .noStepEnabled
  | .hdr0 => emit Config.startByte (encTo .hdr1) s
  | .hdr1 => emit Config.startByte (encTo .len) s
  | .len =>
    let b := s.em.plen + BitVec.ofNat 8 Config.lenBias
    emit b (fun t => encTo .cmd (setEm { t.em with sum := b } t)) s
  | .cmd => emit s.em.cmd (fun t => encTo .seq (addSum s.em.cmd t)) s
  | .seq => emit s.em.seq (fun t => afterSeq (addSum s.em.seq t)) s
  | .pay =>
    let b := sampleTxByte s s.em.idx.toNat
    emit b (fun t => afterPay (addSum b t)) s
  | .chk => emit s.em.sum (encTo .fin0) s
  | .fin0 => emit Config.endByte0 (encTo .fin1) s
  | .fin1 => emit Config.endByte1 encDone s

/-! ## The decoder step -/

/-- The decoder moves on. -/
def decTo (d : DState) (s : State) : State := setDm { s.dm with state := d } s

/-- Decoder error completion (R153). -/
def decError (k : ErrorKind) (s : State) : State := setBusy false (decTo .idle (raise k (clearDec s)))

/-- Decoder success completion (R154). -/
def decDone (s : State) : State :=
  setBusy false (decTo .idle (complete (setDec { s.dec with flags := validateDone s.dec.rxLen s.dec.flags } s)))

/-- The byte of `D_BODY` (R151, R152). `RXBUF` has indices 0..257 (R49). -/
def decBody (b : Byte) (s : State) : Host.Outcome State Fault Refusal :=
  let i := s.dec.rxCnt.toNat
  if i < Config.rxbufSize then
    let (m, f) := validateByte i b s.dec.rxLen s.dm s.dec.flags
    let left := s.dm.rem - 1#9
    let s1 := setDm { m with rem := left }
      (setDec { s.dec with rxbuf := Memory.write s.dec.rxbuf i b, rxCnt := s.dec.rxCnt + 1#9, flags := f } s)
    .next (if left.toNat = 0 then decDone s1 else s1)
  else .fault .bufferIndexOutOfRange

/-- The row of the decoder step for a received byte (R151). -/
def decByte (b : Byte) (s : State) : Host.Outcome State Fault Refusal :=
  match s.dm.state with
  | .idle => .fault .noStepEnabled
  | .hdr0 => .next (setDm { s.dm with h0 := b, state := .hdr1 } s)
  | .hdr1 =>
    .next (if s.dm.h0 = Config.startByte ∧ b = Config.startByte then decTo .len s else decError .badHeader s)
  | .len =>
    .next (setDm { s.dm with rem := b.setWidth 9 + BitVec.ofNat 9 Config.trailerAfterLen, sum := b, state := .body }
      (setDec { s.dec with rxLen := b } s))
  | .body => decBody b s

/-- The decoder step, taken when `d_state` is not `D_IDLE`: it first takes one item (R151). -/
def decStep (s : State) : Host.Outcome State Fault Refusal :=
  match s.rx.item with
  | (.byte b, r) => decByte b (setRx r s)
  | (.streamEnd, r) => .next (decError .truncated (setRx r s))
  | (.never, _) => .fault .readNeverReturns

/-- One step of whichever machine is away from its idle state (R140). -/
def machineStep (s : State) : Host.Outcome State Fault Refusal :=
  if s.em.state = .idle then
    if s.dm.state = .idle then .fault .noStepEnabled else decStep s
  else encStep s

end Sys2Proof.Machine
end

