-- ==== Sys2Proof/Machine/Fetch.lean ====
section
/-! DEFINITION. What a step does with the input it takes. -/

namespace Sys2Proof.Machine

/-- The inputs after the one taken. -/
def dropInput (rest : List Input) (s : State) : State := { s with inputs := rest }

/-- The host presents `OP`: the register takes the code, unless `BUSY = 1`, when the issue is ignored (R115, R213).
A word of another port writes its registers itself. -/
def latchOp (w : HostWord) (i : Instr) (s : State) : State :=
  if w.port = .op ∧ s.busy = false then setOp (encodeOp i) s else s

/-- A word presented to the block: it is decoded and its instruction runs. Bytes that the transport delivers have their
effect whether they are a valid frame or not (R71); other bytes that are no instruction are no action of the host
(R226). -/
def presentStep (w : HostWord) (s : State) : Host.Outcome State Fault Refusal :=
  match decodeWord w with
  | .error e => if w.port = .frameIn then receiveBytes w.bytes s else .refused (.undecodable e)
  | .ok i => exec i (latchOp w i s)

/-- A code of `OP` presented to the byte-serial realisation (R141); ignored while `BUSY = 1` (R213). -/
def presentSerialStep (op : BitVec 3) (s : State) : Host.Outcome State Fault Refusal :=
  if s.busy then .next s else .next (issueSerial op (setOp op s))

/-- A host write; while `BUSY = 1` it has no meaning (U4). -/
def writeStep (w : OperandWrite) (s : State) : Host.Outcome State Fault Refusal :=
  if s.busy then .refused .operandWriteWhileBusy else writeOperand w s

/-- No input: an operation in progress goes on, an idle block stays as it is. -/
def idleStep (s : State) : Host.Outcome State Fault Refusal :=
  if s.busy then machineStep s else .next s

/-- The host waits for `BUSY = 0`: an operation in progress goes on, and the wait is over when it has completed. -/
def waitStep (rest : List Input) (s : State) : Host.Outcome State Fault Refusal :=
  if s.busy then machineStep s else .next (dropInput rest s)

/-- Time passes: an operation in progress takes one step, an idle block none. When a read does not return no step is
enabled (R42), and time passes all the same: the next item is now known to be `Never`, and what the transport fixes later
comes behind it. So a reset can follow any number of steps (R210, R226). -/
def elapseStep (s : State) : Host.Outcome State Fault Refusal :=
  if s.busy then
    match machineStep s with
    | .next t => .next t
    | .fault .readNeverReturns => .next (setRx s.rx.item.2 s)
    | .fault f => .fault f
    | .refused r => .refused r
  else .next s

/-- The transport fixes its next answer to CONNECT (R116, R226). -/
def answerConnect (ok : Bool) (s : State) : State :=
  { s with env := { s.env with connectAhead := s.env.connectAhead ++ [ok] } }

/-- A word as the one input, with the block between operations. -/
def presentNext (w : HostWord) (s : State) : State :=
  { s with
    inputs := [.present w]
    busy := false
    em := { s.em with state := .idle }
    dm := { s.dm with state := .idle } }

end Sys2Proof.Machine
end

