-- ==== Sys2Proof/Machine/HostPort.lean ====
section
/-! DEFINITION. What a host read of a register returns (R24, R213, R226). -/

namespace Sys2Proof.Machine

/-- A flag as a number. -/
def bit (b : Bool) : Nat := if b then 1 else 0

/-- A read of byte `i` of a result buffer of which `count` bytes are specified: beyond them, a draw (U3). -/
def readBuffer (size count : Nat) (m : Memory) (i draw : Nat) : Option Nat :=
  if i < size then
    match Memory.read m i with
    | some b => some (if i < count then b.toNat else (Config.unspecifiedByte draw).toNat)
    | none => some (Config.unspecifiedByte draw).toNat
  else none

/-- The registers a host may read while `BUSY = 1`: not the result registers (R213). -/
def readableWhileBusy : ReadReg → Bool
  | .seq => true
  | .linkOpen => true
  | .busy => true
  | .status => false
  | .flen => false
  | .fbuf _ => false
  | .rxLen => false
  | .rxCnt => false
  | .rxbuf _ => false
  | .lenOk => false
  | .chkOk => false
  | .endOk => false
  | .valid => false

/-- The value a read returns; none where the buffer has no such index (R49). -/
def readReg (r : ReadReg) (s : State) : Option Nat :=
  match r with
  | .seq => some s.seq.toNat
  | .linkOpen => some (bit s.linkOpen)
  | .status => some s.status.toNat
  | .busy => some (bit s.busy)
  | .flen => some s.enc.flen.toNat
  | .fbuf i => readBuffer Config.fbufSize s.enc.flen.toNat s.enc.fbuf i s.observed.length
  | .rxLen => some s.dec.rxLen.toNat
  | .rxCnt => some s.dec.rxCnt.toNat
  | .rxbuf i => readBuffer Config.rxbufSize s.dec.rxCnt.toNat s.dec.rxbuf i s.observed.length
  | .lenOk => some (bit s.dec.flags.lenOk)
  | .chkOk => some (bit s.dec.flags.chkOk)
  | .endOk => some (bit s.dec.flags.endOk)
  | .valid => some (bit s.dec.flags.valid)

/-- A host read: it has no side effect on the block (R47), and what it returned is noted. -/
def hostRead (r : ReadReg) (s : State) : Host.Outcome State Fault Refusal :=
  if s.busy && !readableWhileBusy r then .refused .resultReadWhileBusy
  else
    match readReg r s with
    | some v => .next { s with observed := s.observed ++ [⟨r, v⟩] }
    | none => .fault .bufferIndexOutOfRange

end Sys2Proof.Machine
end

