-- ==== Sys2Proof/Machine/Step.lean ====
section
/-! DEFINITION. One step of the block: it takes the next input, or, while an operation is in progress and the host
waits, the machine in charge takes its step (R140, R141). -/

namespace Sys2Proof.Machine

def step (s : State) : Host.Outcome State Fault Refusal :=
  match s.inputs with
  | [] => idleStep s
  | .waitDone :: rest => waitStep rest s
  | .elapse :: rest => elapseStep (dropInput rest s)
  | .present w :: rest => presentStep w (dropInput rest s)
  | .presentSerial op :: rest => presentSerialStep op (dropInput rest s)
  | .write w :: rest => writeStep w (dropInput rest s)
  | .read r :: rest => hostRead r (dropInput rest s)
  | .reset :: rest => .next (resetBy (dropInput rest s))
  | .deliver items :: rest => .next (deliver items (dropInput rest s))
  | .answerConnect ok :: rest => .next (answerConnect ok (dropInput rest s))

/-- The word of the opcode table presented to the block as the next input, the block being between operations: the
next step runs that instruction (log 9). -/
def State.withFetchWord (s : State) (nbits w : Nat) : State := presentNext (tableWord nbits w) s

end Sys2Proof.Machine
end

