-- ==== Sys2Proof/Safety.lean ====
section
/-! DEFINITION. What claims speak of: a good run and its finish, the layout and the contents that every step keeps,
what has been sent, and what the two realisations agree on. -/

namespace Sys2Proof.Machine

/-! ## Runs -/

/-- No operation of the run has read an operand the host never wrote (R212, U2): "The only things that make a run
meaningless are the host faults" (R225). -/
def State.good (s : State) : Bool := !s.hostFault

/-- The run has finished: every input is taken and the last operation has written `STATUS` (R225). -/
def State.finished (s : State) : Bool := s.inputs.isEmpty && !s.busy

/-- Between operations: `BUSY = 0` and both machines idle (R19, R140). -/
def State.idle (s : State) : Bool := !s.busy && s.em.state == .idle && s.dm.state == .idle

/-- A list of operations carried out whole, one after the other (R46); none if one of them does not complete. -/
def runOps : List Instr → State → Option State
  | [], s => some s
  | i :: is, s =>
    match exec i s with
    | .next t => runOps is t
    | .fault _ => none
    | .refused _ => none

/-! ## The layout every step keeps -/

/-- The position in the frame that the encoder machine has reached: how many bytes it has produced (R20, R144). -/
def encPos (m : EncMachine) : Nat :=
  match m.state with
  | .idle => 0
  | .hdr0 => 0
  | .hdr1 => 1
  | .len => 2
  | .cmd => 3
  | .seq => 4
  | .pay => 5 + m.idx.toNat
  | .chk => 5 + m.plen.toNat
  | .fin0 => 6 + m.plen.toNat
  | .fin1 => 7 + m.plen.toNat

/-- Whether the encoder machine is away from its idle state. -/
def encActive (s : State) : Bool := s.em.state != .idle

/-- Whether the decoder machine is away from its idle state. -/
def decActive (s : State) : Bool := s.dm.state != .idle

/-- Whether the next item of `rx` is known to be `Never` (R42). -/
def nextIsNever (r : RxStream) : Bool := r.ahead.head? == some .never

/-- The encoder machine in a frame: `FLEN` is the position, and what it was issued with is possible (R142 to R144). -/
def encLayout (s : State) : Bool :=
  !encActive s ||
    (decide (s.em.plen.toNat ≤ 253) && decide (s.enc.flen.toNat = encPos s.em) &&
      (s.em.state != .pay || decide (s.em.idx.toNat < s.em.plen.toNat)) && (!s.em.send || s.linkOpen) &&
      (!s.em.xRecv || s.em.send) && !(s.em.nolink && s.em.send))

/-- The decoder machine in a frame: the bytes stored and the bytes left make `L + 3` (R150, R151). When an operation
carried out whole has met `Never`, only the position is kept. -/
def decLayout (s : State) : Bool :=
  !decActive s ||
    (s.linkOpen && (nextIsNever s.rx ||
      (if s.dm.state = .body then
        decide (0 < s.dm.rem.toNat) && decide (s.dec.rxCnt.toNat + s.dm.rem.toNat = s.dec.rxLen.toNat + 3)
      else decide (s.dec.rxCnt.toNat = 0))))

/-- With no decoding in progress the decoder result registers hold no frame, or `L + 3` bytes of one (R17). -/
def decResult (s : State) : Bool :=
  decActive s || s.dec == noFrame s.dec.rxbuf || decide (s.dec.rxCnt.toNat = s.dec.rxLen.toNat + 3)

/-- The first `n` bytes of a buffer hold values. -/
def allListed (m : Memory) (n : Nat) : Bool := (List.range n).all fun i => (Memory.read m i).isSome

/-- The layout of the state: `BUSY` says whether a machine is active and at most one is (R19, R140); the machines and
the counts fit together; `STATUS` is one of its five values (R14); the buffers are in canonical form within their
sizes (R49), and the bytes their counts promise are there (R16, R17). -/
def State.layout (s : State) : Bool :=
  s.busy == (encActive s || decActive s) && !(encActive s && decActive s) && encLayout s && decLayout s &&
    decResult s && decide (s.status.toNat ≤ 4) && decide (s.enc.flen.toNat ≤ 261) &&
    decide (s.dec.rxCnt.toNat ≤ 258) && Memory.wf Config.txbufSize s.opr.txbuf &&
    Memory.wf Config.fbufSize s.enc.fbuf && Memory.wf Config.rxbufSize s.dec.rxbuf &&
    allListed s.enc.fbuf s.enc.flen.toNat && allListed s.dec.rxbuf s.dec.rxCnt.toNat

/-! ## The contents every step keeps -/

/-- The bytes a buffer holds below `n`. -/
def bufferBytes (m : Memory) (n : Nat) : List Byte := (List.range n).filterMap (Memory.read m)

/-- The payload the encoder machine reads, byte by byte, from `TXBUF` (R144). -/
def machinePayload (s : State) : List Byte := (List.range s.em.plen.toNat).map (sampleTxByte s)

/-- The encoder machine has produced the first `FLEN` bytes of its frame (R144), and `e_sum` is the sum of those of
them that are summed (R64). -/
def encContents (s : State) : Bool :=
  let body := frameBody s.em.cmd s.em.seq (machinePayload s)
  !encActive s ||
    (bufferBytes s.enc.fbuf s.enc.flen.toNat ==
        (frameBytes s.em.cmd s.em.seq (machinePayload s)).take s.enc.flen.toNat &&
      (decide (s.enc.flen.toNat ≤ 2) || s.em.sum == checksum (body.take (s.enc.flen.toNat - 2))))

/-- The frame whose bytes the decoder result registers hold so far (R17). -/
def receivedFrame (s : State) : Frame := ⟨s.dec.rxLen, bufferBytes s.dec.rxbuf s.dec.rxCnt.toNat⟩

/-- The decoder machine has computed from the bytes stored what the validator computes from them (R104, R152); with no
decoding in progress the flags of a received frame are those of R104. -/
def decContents (s : State) : Bool :=
  let f := receivedFrame s
  let v := validate f
  let n := f.len.toNat
  let k := s.dec.rxCnt.toNat
  match s.dm.state with
  | .idle => decide (k = 0) || s.dec.flags == v
  | .hdr0 => true
  | .hdr1 => true
  | .len => true
  | .body =>
    nextIsNever s.rx ||
      (s.dm.sum == checksum (f.len :: f.trail.take n) && (decide (k ≤ n) || s.dec.flags.chkOk == v.chkOk) &&
        (decide (k ≤ n + 1) || s.dm.e0 == (f.trail[n + 1]? == some Config.endByte0)))

/-- The frame in `FBUF` when no encoding is in progress: none, or a whole one (R16, R93). -/
def encResult (s : State) : Bool :=
  encActive s || decide (s.enc.flen.toNat = 0) || validFrame (bufferBytes s.enc.fbuf s.enc.flen.toNat)

/-- The contents of the state. -/
def State.contents (s : State) : Bool := encContents s && decContents s && encResult s

/-! ## What has been sent -/

/-- What `TX` holds of the frame that the encoder machine is sending. -/
def sentPart (s : State) : List Byte :=
  if encActive s && s.em.send then bufferBytes s.enc.fbuf s.enc.flen.toNat else []

/-- `TX` is a concatenation of valid frames, and of the part sent of the frame in progress (R41, R93, R119). -/
def State.txWhole (s : State) : Prop :=
  ∃ fs : List (List Byte), (∀ f ∈ fs, validFrame f = true) ∧ s.tx = fs.flatten ++ sentPart s

/-! ## What an operation leaves in the result registers -/

/-- The encoder result registers hold the frame `f`, and no byte past it (R16, R124). -/
def holdsFrame (f : List Byte) (e : EncoderRegs) : Prop :=
  e.flen.toNat = f.length ∧ ∀ a, Memory.read e.fbuf a = f[a]?

/-- The encoder result registers hold no frame (R16, R124). -/
def holdsNothing (e : EncoderRegs) : Prop := e.flen = 0#9 ∧ ∀ a, Memory.read e.fbuf a = none

/-- The decoder result registers hold the frame `f`, no byte past it, and its flags (R17, R18, R125). -/
def holdsReceived (f : Frame) (d : DecoderRegs) : Prop :=
  d.rxLen = f.len ∧ d.rxCnt.toNat = f.len.toNat + 3 ∧ (∀ a, Memory.read d.rxbuf a = f.trail[a]?) ∧
    d.flags = validate f

/-- The decoder result registers hold no frame (R125). -/
def holdsNoFrame (d : DecoderRegs) : Prop :=
  d.rxLen = 0#8 ∧ d.rxCnt = 0#9 ∧ (∀ a, Memory.read d.rxbuf a = none) ∧ d.flags = Flags.clear

/-- `t` is what the RECV rule leaves of `s` with the link open (R120): by what `decode` comes to on the receive
stream, and nothing else changed. A read that never returns leaves the operation unfinished (R42, R218). -/
def receives (s t : State) : Prop :=
  match RxStream.decode s.rx with
  | (.frame f, r) =>
    holdsReceived f t.dec ∧ t = { s with rx := r, dec := t.dec, status := 0#3 }
  | (.error k, r) =>
    holdsNoFrame t.dec ∧ t = { s with rx := r, dec := t.dec, status := k.code }
  | (.hangs d, r) =>
    d ≠ .idle ∧ t = { s with rx := r, busy := true, dm := { s.dm with state := d } }

/-- `i` is a row for the command byte `c`, sent this way with this payload (R170 to R174). -/
def isCommand (i : Instr) (c : Byte) (via : Via) (payload : List Byte) : Prop :=
  i = .cmdOther c via payload ∨ (c = 0x81#8 ∧ i = .cmdQueryAlarm via payload) ∨
    (c = 0x8A#8 ∧ i = .cmdClearAlarms via payload) ∨ (c = 0xCF#8 ∧ i = .cmdReboot via payload)

/-- `o'` is what a line of R72 leaves of the operand registers `o`: `OP`, `CMD_ID`, `PLEN` and the head of `TXBUF` are
the line's, and nothing else changes. A payload that does not fit `TXBUF` is not stored (log 8). -/
def holdsLine (op : BitVec 3) (cmd : Byte) (payload : List Byte) (o o' : OperandRegs) : Prop :=
  o' = { o with
         op := op, cmdId := cmd, cmdIdSet := true, plen := BitVec.ofNat 9 payload.length, plenSet := true
         txbuf := o'.txbuf } ∧
    ∀ a, Memory.read o'.txbuf a =
      if a < payload.length ∧ payload.length ≤ 253 then payload[a]? else Memory.read o.txbuf a

/-- `it` is the next item of the stream `r`, fixed or free, and `r'` the stream after it is taken (R42). -/
def takesItem (r : RxStream) (it : RxItem) (r' : RxStream) : Prop :=
  (∃ rest, r.ahead = it :: rest ∧ r' = { r with pos := r.pos + 1, ahead := rest }) ∨
    (r.ahead = [] ∧ it = Config.rxItem r.draws ∧ r' = { r with pos := r.pos + 1, draws := r.draws + 1 })

/-- An operation whose read never returns (R42, R218): `BUSY = 1`, and the decoder waits for an item that is
`Never`. -/
def State.hung (s : State) : Bool := s.busy && !encActive s && decActive s && nextIsNever s.rx

/-- The state in which a sent command leaves the block before any response is read (R119): the frame `f` in `FBUF` and
at the tail of `TX`, `SEQ` advanced. -/
def sentState (f : List Byte) (s : State) : State :=
  { s with
    enc := { fbuf := Memory.ofBytes 0 f, flen := BitVec.ofNat 9 f.length }
    tx := s.tx ++ f
    seq := s.seq + 1#8 }

/-! ## What the two realisations agree on -/

/-- Agreement on "every register of 10_state.md rules R10 to R18 and on `TX` and `RX_POS`", except bytes of `FBUF` at
indices from `FLEN` on and of `RXBUF` at indices from `RX_CNT` on (R157); the environment and the model's own fields
agree as well. -/
structure Agree (u t : State) : Prop where
  seq : u.seq = t.seq
  linkOpen : u.linkOpen = t.linkOpen
  tx : u.tx = t.tx
  rx : u.rx = t.rx
  status : u.status = t.status
  busy : u.busy = t.busy
  opr : u.opr = t.opr
  flen : u.enc.flen = t.enc.flen
  fbuf : ∀ i, i < t.enc.flen.toNat → Memory.read u.enc.fbuf i = Memory.read t.enc.fbuf i
  rxLen : u.dec.rxLen = t.dec.rxLen
  rxCnt : u.dec.rxCnt = t.dec.rxCnt
  rxbuf : ∀ i, i < t.dec.rxCnt.toNat → Memory.read u.dec.rxbuf i = Memory.read t.dec.rxbuf i
  flags : u.dec.flags = t.dec.flags
  env : u.env = t.env
  inputs : u.inputs = t.inputs
  observed : u.observed = t.observed
  hostFault : u.hostFault = t.hostFault

/-- The steps an operation takes byte by byte after its issue (R157): `s` is the state it is issued in and `t` the
state it leaves. ENC and SEND: `PLEN + 8`; RECV: the items consumed; XFER: both; an operation that completes at its
issue: none. -/
def serialSteps (i : Instr) (s t : State) : Nat :=
  let frame := if plenTooLong s then 0 else (samplePlen s).toNat + Config.overhead
  let items := t.rx.pos - s.rx.pos
  match i with
  | .enc => frame
  | .send => frame
  | .recv => items
  | .xfer => frame + items
  | .reserved0 => 0
  | .connect => 0
  | .disconnect => 0
  | .reserved7 => 0
  | .frame _ _ _ _ => 0
  | .cmdQueryAlarm _ _ => 0
  | .cmdClearAlarms _ _ => 0
  | .cmdReboot _ _ => 0
  | .cmdOther _ _ _ => 0

end Sys2Proof.Machine
end

