-- ==== Sys2Proof/Certificates/Slice0/Obligations.lean ====
section
/-! DEFINITION. The statements for the provers. -/

open Sys2Proof Sys2Proof.Machine

/-! ## Reset -/

/-- R25, R210: the input that asserts reset puts the named state at its reset value, whatever the block was doing, and
leaves the operand registers and the buffers with no byte the host or an operation wrote. -/
def Obligations.ResetInputGivesResetValues : Prop :=
  ∀ (s : State) (rest : List Input), s.inputs = .reset :: rest →
    ∃ t, step s = .next t ∧ t.seq = 0#8 ∧ t.linkOpen = false ∧ t.tx = [] ∧ t.rx.pos = 0 ∧ t.status = 0#3 ∧
      t.busy = false ∧ t.enc.flen = 0#9 ∧ t.dec.rxLen = 0#8 ∧ t.dec.rxCnt = 0#9 ∧ t.dec.flags = Flags.clear ∧
      t.em.state = .idle ∧ t.dm.state = .idle ∧ t.opr.cmdIdSet = false ∧ t.opr.seqInSet = false ∧
      t.opr.plenSet = false ∧ (∀ a, Memory.read t.opr.txbuf a = none) ∧ (∀ a, Memory.read t.enc.fbuf a = none) ∧
      (∀ a, Memory.read t.dec.rxbuf a = none) ∧ t.inputs = rest

/-- R25: the state after reset holds the values the spec gives. -/
def Obligations.ResetStateHoldsSpecValues : Prop :=
  let t := State.reset
  t.seq = 0#8 ∧ t.linkOpen = false ∧ t.tx = [] ∧ t.rx.pos = 0 ∧ t.status = 0#3 ∧ t.busy = false ∧
    t.enc.flen = 0#9 ∧ t.dec.rxLen = 0#8 ∧ t.dec.rxCnt = 0#9 ∧ t.dec.flags = Flags.clear ∧ t.em.state = .idle ∧
    t.dm.state = .idle

/-! ## The host operations -/

/-- R122: a reserved code sets `STATUS` to `InvalidArgument` and changes nothing else. -/
def Obligations.ReservedCodesReportInvalidArgument : Prop :=
  ∀ s : State, s.busy = false →
    exec .reserved0 s = .next { s with status := 4#3 } ∧ exec .reserved7 s = .next { s with status := 4#3 }

/-- R116: CONNECT on an open link changes nothing; on a closed one the transport's answer, where one is fixed and where
none is, decides between an open link with `OK` and a closed one with `TransportNotOpen`. -/
def Obligations.ConnectFollowsTransportAnswer : Prop :=
  ∀ s : State, s.busy = false →
    (s.linkOpen = true → exec .connect s = .next { s with status := 0#3 }) ∧
    (s.linkOpen = false →
      (∀ ok rest, s.env.connectAhead = ok :: rest →
        exec .connect s = .next { s with
          linkOpen := ok
          status := if ok then 0#3 else 1#3
          env := { s.env with connectAhead := rest } }) ∧
      (s.env.connectAhead = [] →
        ∃ ok, exec .connect s = .next { s with
          linkOpen := ok
          status := if ok then 0#3 else 1#3
          env := { s.env with connectDraws := s.env.connectDraws + 1 } }))

/-- R117, R186: DISCONNECT clears `LINK_OPEN`, reports `OK`, and changes nothing else. After it, through any operations
that all complete, until a CONNECT succeeds (each CONNECT among them has left the link closed), SEND, RECV and XFER
report `TransportNotOpen` (or, of SEND and XFER, `InvalidArgument` for a payload that is too long). -/
def Obligations.DisconnectReleasesTransport : Prop :=
  ∀ s : State, s.busy = false →
    ∃ t, exec .disconnect s = .next t ∧ t = { s with linkOpen := false, status := 0#3 } ∧
      ∀ (is : List Instr) (u : State), runOps is t = some u →
        (∀ k v, is[k]? = some .connect → runOps (is.take (k + 1)) t = some v → v.linkOpen = false) →
          ∀ i ∈ [Instr.send, .recv, .xfer], ∃ v, exec i u = .next v ∧
            (v.status = 1#3 ∨ (v.status = 4#3 ∧ i ≠ .recv ∧ 253 < (samplePlen u).toNat))

/-- R118, R124: ENC leaves the frame of its operands in `FBUF`, or nothing when `PLEN > 253`, and changes nothing else
but `STATUS` (and the model's own record of a host fault, of which UnwrittenOperandMarksTheRun speaks). -/
def Obligations.EncBuildsFrameInFbuf : Prop :=
  ∀ s : State, s.busy = false →
    ∃ t, exec .enc s = .next t ∧
      ((samplePlen s).toNat ≤ 253 →
        holdsFrame (frameBytes (sampleCmdId s) (sampleSeqIn s) (samplePayload s)) t.enc ∧ t.status = 0#3) ∧
      (253 < (samplePlen s).toNat → holdsNothing t.enc ∧ t.status = 4#3) ∧
      t = { s with enc := t.enc, status := t.status, hostFault := t.hostFault }

/-- R119: SEND builds the frame with the Session's `SEQ`; with the link open it appends it to `TX` and advances `SEQ`;
with the link closed the frame stays in `FBUF` only; with `PLEN > 253` there is no frame. Nothing else changes. -/
def Obligations.SendAppendsFrameAndAdvancesSeq : Prop :=
  ∀ s : State, s.busy = false →
    let f := frameBytes (sampleCmdId s) s.seq (samplePayload s)
    ∃ t, exec .send s = .next t ∧
      (253 < (samplePlen s).toNat → holdsNothing t.enc ∧ t.status = 4#3 ∧ t.tx = s.tx ∧ t.seq = s.seq) ∧
      ((samplePlen s).toNat ≤ 253 → holdsFrame f t.enc ∧
        (s.linkOpen = true → t.status = 0#3 ∧ t.tx = s.tx ++ f ∧ t.seq = s.seq + 1#8) ∧
        (s.linkOpen = false → t.status = 1#3 ∧ t.tx = s.tx ∧ t.seq = s.seq)) ∧
      t = { s with enc := t.enc, status := t.status, tx := t.tx, seq := t.seq, hostFault := t.hostFault }

/-- R120, R125: RECV with the link closed clears the decoder result registers and consumes nothing; with it open it does
what `decode` comes to. Nothing else changes. (What a read that never returns leaves, in `receives`, is the model's
reading of R42, logs 6 and 11.) -/
def Obligations.RecvStoresWhatDecodeGives : Prop :=
  ∀ s : State, s.busy = false →
    ∃ t, exec .recv s = .next t ∧
      (s.linkOpen = false → holdsNoFrame t.dec ∧ t = { s with dec := t.dec, status := 1#3 }) ∧
      (s.linkOpen = true → receives s t)

/-- R121: XFER ends as SEND ends when SEND fails; otherwise it is the RECV of the state the sent command leaves, in
which `STATUS` is not yet written. (What a read that never returns leaves, in `receives`, is the model's reading of R42,
logs 6 and 11.) -/
def Obligations.XferSendsThenReceives : Prop :=
  ∀ s : State, s.busy = false →
    ∃ t, exec .xfer s = .next t ∧
      ((253 < (samplePlen s).toNat ∨ s.linkOpen = false) → exec .send s = .next t ∧ t.status ≠ 0#3) ∧
      ((samplePlen s).toNat ≤ 253 → s.linkOpen = true →
        receives
          { sentState (frameBytes (sampleCmdId s) s.seq (samplePayload s)) s with hostFault := t.hostFault } t)

/-- R186: a payload too long on a closed link reports `InvalidArgument`, not `TransportNotOpen`, from SEND and XFER. -/
def Obligations.TooLongPayloadOnClosedLinkIsInvalidArgument : Prop :=
  ∀ s : State, s.busy = false → s.linkOpen = false → 253 < (samplePlen s).toNat →
    ∃ t u, exec .send s = .next t ∧ exec .xfer s = .next u ∧ t.status = 4#3 ∧ u.status = 4#3

/-- R115, R213: an operation issued while `BUSY = 1` is ignored. -/
def Obligations.IssueWhileBusyIsIgnored : Prop :=
  ∀ s : State, s.busy = true →
    ∀ i ∈ [Instr.reserved0, .connect, .disconnect, .enc, .send, .recv, .xfer, .reserved7], exec i s = .next s

/-- R187: what an operation that ends in an error leaves alone. No error clears `LINK_OPEN` or touches an operand or a
machine register; only an XFER that failed in its RECV half has moved `SEQ` and `TX`, and only a failed `decode` has
moved the receive stream. -/
def Obligations.ErrorsChangeOnlyWhatTheyList : Prop :=
  ∀ (s t : State), s.busy = false →
    ∀ i ∈ [Instr.reserved0, .connect, .disconnect, .enc, .send, .recv, .xfer, .reserved7],
      exec i s = .next t → t.busy = false → t.status ≠ 0#3 →
        t.linkOpen = s.linkOpen ∧ t.opr = s.opr ∧ t.em = s.em ∧ t.dm = s.dm ∧
        ((t.status = 1#3 ∨ t.status = 4#3) → t.seq = s.seq ∧ t.tx = s.tx ∧ t.rx = s.rx) ∧
        ((t.status = 2#3 ∨ t.status = 3#3) → (i = .recv ∨ i = .xfer) ∧ holdsNoFrame t.dec) ∧
        (i ≠ .recv → (t.status = 1#3 ∨ t.status = 4#3) → t.dec = s.dec) ∧
        (i ≠ .enc → i ≠ .send → i ≠ .xfer → t.enc = s.enc)

/-! ## The rows about the wire -/

/-- R60, R90, R72: a frame that the block builds is the line `ENC cmd, seq, payload`: its operands are loaded and the
frame, byte for byte, is in `FBUF`. -/
def Obligations.FrameBuiltStandsInFbuf : Prop :=
  ∀ (s : State) (cmd seq : Byte) (payload : List Byte), s.busy = false → payload.length ≤ 253 →
    ∃ t, exec (.frame .built cmd seq payload) s = .next t ∧ holdsFrame (frameBytes cmd seq payload) t.enc ∧
      t.status = 0#3 ∧ t.opr.cmdId = cmd ∧ t.opr.seqIn = seq ∧ t.opr.plen.toNat = payload.length ∧
      (∀ a, a < payload.length → Memory.read t.opr.txbuf a = payload[a]?) ∧
      (∀ a, payload.length ≤ a → Memory.read t.opr.txbuf a = Memory.read s.opr.txbuf a) ∧
      t = { s with enc := t.enc, status := 0#3, opr := t.opr }

/-- R107, R120: a frame that the transport delivers with nothing waiting before it, and the link open, is received
whole: its raw bytes are in `RXBUF`, its fields are read back, `VALID = 1`, and exactly its bytes are consumed. -/
def Obligations.FrameReceivedIsReadBack : Prop :=
  ∀ (s : State) (cmd seq : Byte) (payload : List Byte), s.busy = false → s.linkOpen = true → s.rx.ahead = [] →
    payload.length ≤ 253 →
      ∃ t f, exec (.frame .received cmd seq payload) s = .next t ∧ holdsReceived f t.dec ∧
        f.commandId = some cmd ∧ f.sequence = some seq ∧ f.payload = some payload ∧ t.dec.flags.valid = true ∧
        t.rx = { s.rx with pos := s.rx.pos + payload.length + 8 } ∧
        t = { s with rx := t.rx, dec := t.dec, status := 0#3, opr := { s.opr with op := 5#3 } }

/-- R60, R72, R91: the forms of a line `ENC cmd, seq, payload` that leave no frame: a count over 253 is
`InvalidArgument`. A line has no meaning while `BUSY = 1` (U4). (That a FRAME row built is this line is the model's
reading, log 10; so are the refusal of a count that `PLEN` cannot hold, log 16, and that a payload which does not fit
`TXBUF` is not stored there, log 8.) -/
def Obligations.FrameBuildingLinesWithoutFrame : Prop :=
  ∀ (s : State) (cmd seq : Byte) (payload : List Byte),
    (s.busy = true → exec (.frame .built cmd seq payload) s = .refused .operandWriteWhileBusy) ∧
    (s.busy = false → 511 < payload.length →
      exec (.frame .built cmd seq payload) s = .refused .countNotExpressible) ∧
    (s.busy = false → 253 < payload.length → payload.length ≤ 511 →
      ∃ t, exec (.frame .built cmd seq payload) s = .next t ∧ holdsNothing t.enc ∧
        holdsLine 3#3 cmd payload { s.opr with seqIn := seq, seqInSet := true } t.opr ∧
        t = { s with enc := t.enc, status := 4#3, opr := t.opr })

/-- R120, R217: a frame that the transport delivers waits behind the items already fixed, whatever the block does with
the link; the RECV then reads from the head of the stream. With `BUSY = 1` the frame only waits; with the link closed
nothing is consumed; a payload too long makes no frame (R91). (That a FRAME row received is a delivery and a RECV is the
model's reading, log 10; so are the refusal of a payload over 253 bytes, log 16, and what a read that never returns
leaves, logs 6 and 11.) -/
def Obligations.ReceivedFrameWaitsBehindOlderItems : Prop :=
  ∀ (s : State) (cmd seq : Byte) (payload : List Byte),
    let s' := { s with rx := { s.rx with ahead := s.rx.ahead ++ (frameBytes cmd seq payload).map RxItem.byte } }
    (253 < payload.length → exec (.frame .received cmd seq payload) s = .refused .noSuchFrame) ∧
    (payload.length ≤ 253 → s.busy = true → exec (.frame .received cmd seq payload) s = .next s') ∧
    (payload.length ≤ 253 → s.busy = false →
      ∃ t, exec (.frame .received cmd seq payload) s = .next t ∧
        (s.linkOpen = false → holdsNoFrame t.dec ∧
          t = { s' with dec := t.dec, status := 1#3, opr := { s.opr with op := 5#3 } }) ∧
        (s.linkOpen = true → receives { s' with opr := { s.opr with op := 5#3 } } t))

/-- R170 to R174: a command, whatever its row (cmdQueryAlarm, cmdClearAlarms, cmdReboot, cmdOther) and its `CMD` byte,
sent by `SEND c, payload` on an open link completes: its frame `encode(c, SEQ, payload)` is in `FBUF` and appended to
`TX`; `SEQ` advances; the line's registers are written (R72) and nothing else changes. -/
def Obligations.CommandsSendTheirFrame : Prop :=
  ∀ (s : State) (c : Byte) (payload : List Byte) (i : Instr), isCommand i c .send payload → s.busy = false →
    s.linkOpen = true → payload.length ≤ 253 →
      ∃ t, exec i s = .next t ∧ holdsFrame (frameBytes c s.seq payload) t.enc ∧
        holdsLine 4#3 c payload s.opr t.opr ∧
        t = { s with
              enc := t.enc, opr := t.opr, tx := s.tx ++ frameBytes c s.seq payload, seq := s.seq + 1#8
              status := 0#3 }

/-- R170, R121: the same commands sent by `XFER c, payload` complete: the frame is in `FBUF` and appended, `SEQ` advances
once, the line's registers are written, and the receive stream is decoded as the response. (What a read that never
returns leaves, in `receives`, is the model's reading of R42, logs 6 and 11.) -/
def Obligations.CommandsTransferTheirFrame : Prop :=
  ∀ (s : State) (c : Byte) (payload : List Byte) (i : Instr), isCommand i c .xfer payload → s.busy = false →
    s.linkOpen = true → payload.length ≤ 253 →
      ∃ t, exec i s = .next t ∧ holdsLine 6#3 c payload s.opr t.opr ∧
        receives { sentState (frameBytes c s.seq payload) s with opr := t.opr } t

/-- R72, R91, R119, R181: the forms of the command lines that do not send: a count over 253 is `InvalidArgument` with no
frame; on a closed link a shorter one is `TransportNotOpen` with the frame in `FBUF`; `TX`, `SEQ` and the receive stream
do not move. A line has no meaning while `BUSY = 1` (U4). (The refusal of a count that `PLEN` cannot hold is the model's,
log 16, and so is that a payload which does not fit `TXBUF` is not stored there, log 8.) -/
def Obligations.CommandLinesThatDoNotSend : Prop :=
  ∀ (s : State) (c : Byte) (via : Via) (payload : List Byte) (i : Instr), isCommand i c via payload →
    (s.busy = true → exec i s = .refused .operandWriteWhileBusy) ∧
    (s.busy = false → 511 < payload.length → exec i s = .refused .countNotExpressible) ∧
    (s.busy = false → payload.length ≤ 511 → (253 < payload.length ∨ s.linkOpen = false) →
      ∃ t, exec i s = .next t ∧ holdsLine (if via = .send then 4#3 else 6#3) c payload s.opr t.opr ∧
        (253 < payload.length → holdsNothing t.enc ∧ t.status = 4#3) ∧
        (payload.length ≤ 253 → holdsFrame (frameBytes c s.seq payload) t.enc ∧ t.status = 1#3) ∧
        t = { s with enc := t.enc, status := t.status, opr := t.opr })

/-- R170 to R173: the block's behaviour does not depend on the `CMD` byte: two commands of any rows, sent the same way
with the same payload in the same state, go on alike, and leave the same `STATUS`, `SEQ`, link, receive stream, decoder
registers, `BUSY`, machines and operands but `CMD_ID`, and as many bytes sent. (That a cmdOther term with a byte that has
a row of its own runs too is the model's choice, log 16.) -/
def Obligations.BehaviourIsIndependentOfCmd : Prop :=
  ∀ (s t : State) (c c' : Byte) (via : Via) (payload : List Byte) (i j : Instr), isCommand i c via payload →
    isCommand j c' via payload → exec i s = .next t →
      ∃ u, exec j s = .next u ∧ t.status = u.status ∧ t.seq = u.seq ∧ t.linkOpen = u.linkOpen ∧ t.rx = u.rx ∧
        t.dec = u.dec ∧ t.busy = u.busy ∧ t.em = u.em ∧ t.dm = u.dm ∧ t.opr = { u.opr with cmdId := c } ∧
        t.hostFault = u.hostFault ∧ t.tx.length = u.tx.length ∧ t.enc.flen = u.enc.flen

/-! ## The encoder function -/

/-- R91: when `encode` raises `InvalidArgument`, its one error, and that it has a frame otherwise. -/
def Obligations.EncodeRefusesExactlyBadArguments : Prop :=
  ∀ (c q : Int) (p : List Byte),
    (encodeFrame c q p = .error .invalidArgument ↔ c < 0 ∨ c > 255 ∨ q < 0 ∨ q > 255 ∨ p.length > 253) ∧
    (∀ k, encodeFrame c q p = .error k → k = .invalidArgument)

/-- R93: the bytes of an encoded frame, position by position; it is a valid frame; and `encode` is injective on what it
accepts. -/
def Obligations.EncodedFrameIsValidAndInjective : Prop :=
  ∀ (c q : Int) (p f : List Byte), encodeFrame c q p = .ok f →
    f.length = p.length + 8 ∧ f[0]? = some 0xAA#8 ∧ f[1]? = some 0xAA#8 ∧
    f[2]?.map BitVec.toNat = some (p.length + 2) ∧ f[3]? = some (BitVec.ofInt 8 c) ∧
    f[4]? = some (BitVec.ofInt 8 q) ∧ (f.drop 5).take p.length = p ∧
    f[p.length + 5]?.map BitVec.toNat = some ((p.length + 2 + c.toNat + q.toNat + byteSum p) % 256) ∧
    f[p.length + 6]? = some 0x0D#8 ∧ f[p.length + 7]? = some 0x0A#8 ∧ validFrame f = true ∧
    ∀ (c' q' : Int) (p' : List Byte), encodeFrame c' q' p' = .ok f → c' = c ∧ q' = q ∧ p' = p

/-! ## The decoder function and the validator -/

/-- R100, R101, R102, R103: `decode` on every shape the fixed items of the stream can have, with the items it leaves. -/
def Obligations.DecodeConsumesExactly : Prop :=
  ∀ (p d : Nat) (rest : List RxItem),
    (∀ (l : Byte) (t : List Byte), t.length = l.toNat + 3 →
      RxStream.decode ⟨p, (0xAA#8 :: 0xAA#8 :: l :: t).map RxItem.byte ++ rest, d⟩ =
        (.frame ⟨l, t⟩, ⟨p + l.toNat + 6, rest, d⟩)) ∧
    (∀ a b : Byte, ¬(a = 0xAA#8 ∧ b = 0xAA#8) →
      RxStream.decode ⟨p, .byte a :: .byte b :: rest, d⟩ = (.error .badHeader, ⟨p + 2, rest, d⟩)) ∧
    (∀ h : List Byte, h.length < 2 →
      RxStream.decode ⟨p, h.map RxItem.byte ++ .streamEnd :: rest, d⟩ =
        (.error .truncated, ⟨p + h.length + 1, rest, d⟩)) ∧
    RxStream.decode ⟨p, .byte 0xAA#8 :: .byte 0xAA#8 :: .streamEnd :: rest, d⟩ =
      (.error .truncated, ⟨p + 3, rest, d⟩) ∧
    (∀ (l : Byte) (t : List Byte), t.length < l.toNat + 3 →
      RxStream.decode ⟨p, (0xAA#8 :: 0xAA#8 :: l :: t).map RxItem.byte ++ .streamEnd :: rest, d⟩ =
        (.error .truncated, ⟨p + 3 + t.length + 1, rest, d⟩))

/-- R103: "`decode` never consumes an item beyond these": when a `decode` that returns has consumed some items, it
comes to the same, and consumes just those, whatever stands behind them, and leaves that untouched. -/
def Obligations.DecodeDependsOnlyOnItemsConsumed : Prop :=
  ∀ (p d : Nat) (items rest : List RxItem) (o : DecodeResult),
    RxStream.decode ⟨p, items ++ rest, d⟩ = (o, ⟨p + items.length, rest, d⟩) → (∀ w, o ≠ .hangs w) →
      ∀ (p' d' : Nat) (rest' : List RxItem),
        RxStream.decode ⟨p', items ++ rest', d'⟩ = (o, ⟨p' + items.length, rest', d'⟩)

/-- R107: round trip through the wire: `decode` on the bytes of an encoded frame hands back its fields. -/
def Obligations.DecodeOfEncodeHandsBackFields : Prop :=
  ∀ (cmd seq : Byte) (payload : List Byte) (p d : Nat) (rest : List RxItem), payload.length ≤ 253 →
    ∃ bs f, encodeFrame cmd.toNat seq.toNat payload = .ok bs ∧
      RxStream.decode ⟨p, bs.map RxItem.byte ++ rest, d⟩ = (.frame f, ⟨p + payload.length + 8, rest, d⟩) ∧
      f.len.toNat = payload.length + 2 ∧ f.commandId = some cmd ∧ f.sequence = some seq ∧
      f.payload = some payload ∧ f.checksumByte = some (checksum (frameBody cmd seq payload)) ∧
      f.endBytes = [0x0D#8, 0x0A#8] ∧ (validate f).valid = true

/-- R104: the flags of a frame by their formulas, and `VALID = 1` exactly when the received bytes are a valid frame
(R62). -/
def Obligations.ValidFlagMeansValidFrame : Prop :=
  ∀ (l : Byte) (t : List Byte), t.length = l.toNat + 3 →
    let v := validate ⟨l, t⟩
    (v.lenOk = true ↔ 2 ≤ l.toNat) ∧
    (v.chkOk = true ↔ t[l.toNat]?.map BitVec.toNat = some ((l.toNat + byteSum (t.take l.toNat)) % 256)) ∧
    (v.endOk = true ↔ t[l.toNat + 1]? = some 0x0D#8 ∧ t[l.toNat + 2]? = some 0x0A#8) ∧
    v.valid = (v.lenOk && v.chkOk && v.endOk) ∧
    v.valid = validFrame (0xAA#8 :: 0xAA#8 :: l :: t)

/-- R105: a received length byte of 0 or 1: `decode` succeeds with 3 or 4 trailing bytes, the flags are computed by
position, and the three views have no value. -/
def Obligations.ShortLengthByteIsFlagged : Prop :=
  (∀ a e0 e1 : Byte, validate ⟨0#8, [a, e0, e1]⟩ =
      ⟨false, a == 0#8, e0 == 0x0D#8 && e1 == 0x0A#8, false⟩) ∧
  (∀ a b e0 e1 : Byte, validate ⟨1#8, [a, b, e0, e1]⟩ =
      ⟨false, b.toNat == (1 + a.toNat) % 256, e0 == 0x0D#8 && e1 == 0x0A#8, false⟩) ∧
  (∀ (l : Byte) (t : List Byte), l.toNat < 2 →
    Frame.commandId ⟨l, t⟩ = none ∧ Frame.sequence ⟨l, t⟩ = none ∧ Frame.payload ⟨l, t⟩ = none) ∧
  (∀ (a b e0 e1 : Byte) (p d : Nat) (rest : List RxItem),
    RxStream.decode ⟨p, [0xAA#8, 0xAA#8, 0#8, a, e0, e1].map RxItem.byte ++ rest, d⟩ =
        (.frame ⟨0#8, [a, e0, e1]⟩, ⟨p + 6, rest, d⟩) ∧
      RxStream.decode ⟨p, [0xAA#8, 0xAA#8, 1#8, a, b, e0, e1].map RxItem.byte ++ rest, d⟩ =
        (.frame ⟨1#8, [a, b, e0, e1]⟩, ⟨p + 7, rest, d⟩))

/-- R185, R221: a response whole in length is delivered whatever it holds: RECV reports `OK`, stores its raw bytes,
and only the flags say what is wrong with it. -/
def Obligations.RecvDeliversWhateverFollowsTheMarker : Prop :=
  ∀ (s : State) (l : Byte) (t : List Byte) (rest : List RxItem), s.busy = false → s.linkOpen = true →
    t.length = l.toNat + 3 → s.rx.ahead = (0xAA#8 :: 0xAA#8 :: l :: t).map RxItem.byte ++ rest →
      ∃ u, exec .recv s = .next u ∧ u.status = 0#3 ∧ holdsReceived ⟨l, t⟩ u.dec ∧ u.seq = s.seq ∧
        u.rx = { s.rx with pos := s.rx.pos + l.toNat + 6, ahead := rest }

/-- R108, R217: nothing is matched: what RECV, or the RECV half of XFER, makes of the receive stream depends on the
stream alone, not on `SEQ`, on what was sent, or on any operand. -/
def Obligations.ReceptionIgnoresWhatWasSent : Prop :=
  ∀ (s s' t t' : State), s.busy = false → s'.busy = false → s.linkOpen = true → s'.linkOpen = true → s.rx = s'.rx →
    (samplePlen s).toNat ≤ 253 → exec .xfer s = .next t → exec .recv s' = .next t' → t'.busy = false →
      t.rx = t'.rx ∧ t.dec = t'.dec ∧ t.status = t'.status ∧ t.busy = false

/-! ## Reads that never return -/

/-- R42, R218: an XFER whose first read is never answered has sent its frame and advanced `SEQ`; `BUSY` stays 1,
`STATUS` is not written, and no step is enabled. (That `RX_POS` stays is the model's reading of R42, log 6; that the next
step is the fault of a read that never returns is its form for no step, log 11.) -/
def Obligations.XferOnNeverStaysBusy : Prop :=
  ∀ (s : State) (rest : List RxItem), s.busy = false → s.em.state = .idle → s.linkOpen = true →
    (samplePlen s).toNat ≤ 253 → s.rx.ahead = .never :: rest → s.inputs = [] →
      ∃ t, exec .xfer s = .next t ∧ t.tx = s.tx ++ frameBytes (sampleCmdId s) s.seq (samplePayload s) ∧
        t.seq = s.seq + 1#8 ∧ t.busy = true ∧ t.status = s.status ∧ t.rx.pos = s.rx.pos ∧
        step t = .fault .readNeverReturns

/-- R42: "only a reset leaves it": from a state in which a read never returns, every step that goes on either takes
the reset input or leaves the block in such a state, with `STATUS` as it was. -/
def Obligations.OnlyResetLeavesAReadThatNeverReturns : Prop :=
  ∀ s t : State, s.hung = true → step s = .next t →
    (∃ rest, s.inputs = .reset :: rest) ∨ (t.hung = true ∧ t.status = s.status)

/-! ## Whole-machine rules -/

/-- R11: nothing but CONNECT, DISCONNECT and reset changes `LINK_OPEN`, in either realisation. -/
def Obligations.LinkChangesOnlyByConnectDisconnectReset : Prop :=
  ∀ s t : State, step s = .next t → t.linkOpen ≠ s.linkOpen →
    (∃ rest, s.inputs = .reset :: rest) ∨
    (∃ w rest, s.inputs = .present w :: rest ∧ (decodeWord w = .ok .connect ∨ decodeWord w = .ok .disconnect)) ∨
    (∃ op rest, s.inputs = .presentSerial op :: rest ∧ (op = 1#3 ∨ op = 2#3))

/-- R10, R12: an operation carried out whole either leaves `SEQ` and `TX` alone, or is a send: it advances `SEQ` by one
and appends one valid frame, which carries the old `SEQ`. -/
def Obligations.SeqMovesOnlyWithASentFrame : Prop :=
  ∀ (i : Instr) (s t : State), exec i s = .next t →
    (t.seq = s.seq ∧ t.tx = s.tx) ∨
    (t.seq = s.seq + 1#8 ∧ ∃ f, validFrame f = true ∧ f[4]? = some s.seq ∧ t.tx = s.tx ++ f ∧ s.linkOpen = true)

/-- R123: over any list of operations that all complete, the frames sent are valid, carry successive sequence numbers
from the `SEQ` at the start on, modulo 256, and `SEQ` has advanced by their number. -/
def Obligations.SentFramesCarrySuccessiveSequenceNumbers : Prop :=
  ∀ (is : List Instr) (s t : State), runOps is s = some t →
    ∃ fs : List (List Byte), fs.length ≤ is.length ∧ t.tx = s.tx ++ fs.flatten ∧
      t.seq = s.seq + BitVec.ofNat 8 fs.length ∧
      ∀ k (h : k < fs.length), validFrame fs[k] = true ∧ (fs[k])[4]? = some (s.seq + BitVec.ofNat 8 k)

/-! ## Host access -/

/-- R15, R24: a host write of an operand register changes that register alone; a write while `BUSY = 1` has no meaning
(U4). (That an index of `TXBUF` from 253 on, which R49 does not give, faults is the model's choice, log 17; the marks of
written registers are the model's, log 4.) -/
def Obligations.HostWriteChangesOneOperand : Prop :=
  ∀ (s : State) (w : OperandWrite) (rest : List Input), s.inputs = .write w :: rest →
    (s.busy = true → step s = .refused .operandWriteWhileBusy) ∧
    (s.busy = false →
      match w with
      | .cmdId b => step s = .next { s with inputs := rest, opr := { s.opr with cmdId := b, cmdIdSet := true } }
      | .seqIn b => step s = .next { s with inputs := rest, opr := { s.opr with seqIn := b, seqInSet := true } }
      | .plen n => step s = .next { s with inputs := rest, opr := { s.opr with plen := n, plenSet := true } }
      | .txbuf i b =>
        (253 ≤ i → step s = .fault .bufferIndexOutOfRange) ∧
        (i < 253 → ∃ m, step s = .next { s with inputs := rest, opr := { s.opr with txbuf := m } } ∧
          ∀ a, Memory.read m a = if a = i then some b else Memory.read s.opr.txbuf a))

/-- R24, R47, R213: a host read returns the register and changes nothing but the model's note of what it returned. Of a
byte that is specified it returns the byte, of another byte of the buffer some byte (U3). (The refusal of a result
register while `BUSY = 1`, `SEQ`, `LINK_OPEN` and `BUSY` being exempt, is the model's reading, log 15; the fault at an
index the buffer does not have is its choice, log 17; the note is its own, log 5.) -/
def Obligations.HostReadHasNoSideEffect : Prop :=
  ∀ (s : State) (r : ReadReg) (rest : List Input), s.inputs = .read r :: rest →
    let returns (v : Nat) : Prop := step s = .next { s with inputs := rest, observed := s.observed ++ [⟨r, v⟩] }
    (∀ t, step s = .next t → ∃ v, t = { s with inputs := rest, observed := s.observed ++ [⟨r, v⟩] }) ∧
    (s.busy = true → r ∉ [ReadReg.seq, .linkOpen, .busy] → step s = .refused .resultReadWhileBusy) ∧
    ((s.busy = false ∨ r ∈ [ReadReg.seq, .linkOpen, .busy]) →
      match r with
      | .seq => returns s.seq.toNat
      | .linkOpen => returns (if s.linkOpen then 1 else 0)
      | .status => returns s.status.toNat
      | .busy => returns (if s.busy then 1 else 0)
      | .flen => returns s.enc.flen.toNat
      | .fbuf i =>
        (261 ≤ i → step s = .fault .bufferIndexOutOfRange) ∧
        (i < 261 → ∃ b : Byte, returns b.toNat ∧
          (i < s.enc.flen.toNat → ∀ v, Memory.read s.enc.fbuf i = some v → b = v))
      | .rxLen => returns s.dec.rxLen.toNat
      | .rxCnt => returns s.dec.rxCnt.toNat
      | .rxbuf i =>
        (258 ≤ i → step s = .fault .bufferIndexOutOfRange) ∧
        (i < 258 → ∃ b : Byte, returns b.toNat ∧
          (i < s.dec.rxCnt.toNat → ∀ v, Memory.read s.dec.rxbuf i = some v → b = v))
      | .lenOk => returns (if s.dec.flags.lenOk then 1 else 0)
      | .chkOk => returns (if s.dec.flags.chkOk then 1 else 0)
      | .endOk => returns (if s.dec.flags.endOk then 1 else 0)
      | .valid => returns (if s.dec.flags.valid then 1 else 0))

/-- R212, U2: an operation that reads an operand the host never wrote runs and marks the run, and no other does: ENC
reads `CMD_ID`, `SEQ_IN`, `PLEN` and the payload, SEND and XFER all of these but `SEQ_IN`, and with `PLEN > 253` only
`PLEN` is read. (That such an operation runs, with free values, and marks the run is the model's choice, log 4.) -/
def Obligations.UnwrittenOperandMarksTheRun : Prop :=
  ∀ s : State, s.busy = false →
    let missing (needsSeqIn : Bool) : Prop :=
      s.opr.plenSet = false ∨
        (s.opr.plen.toNat ≤ 253 ∧
          (s.opr.cmdIdSet = false ∨ (needsSeqIn = true ∧ s.opr.seqInSet = false) ∨
            ∃ i, i < s.opr.plen.toNat ∧ Memory.read s.opr.txbuf i = none))
    ∃ t u v, exec .enc s = .next t ∧ exec .send s = .next u ∧ exec .xfer s = .next v ∧
      (t.hostFault = true ↔ s.hostFault = true ∨ missing true) ∧
      (u.hostFault = true ↔ s.hostFault = true ∨ missing false) ∧
      (v.hostFault = true ↔ s.hostFault = true ∨ missing false)

/-! ## Encodings -/

/-- R60, R62, R70: for every well-formed instruction, with every operand it admits, decoding its word, whatever bytes
follow, gives it back and leaves those bytes. -/
def Obligations.DecodeOfEncodeIsIdentity : Prop :=
  ∀ (i : Instr) (rest : List Byte), i.wf = true → decode (encode i).port ((encode i).bytes ++ rest) = .ok (i, rest)

/-- R60, R62: each word has one meaning: what the decoder accepts at a port, but for the bits of an `OP` byte that the
mask leaves out, is the word of the well-formed instruction it gives, and the rest. (The layout of a command line is the
model's choice, log 8.) -/
def Obligations.DecodedWordIsTheInstructionsWord : Prop :=
  ∀ (port : Port) (bs rest : List Byte) (i : Instr), port ≠ .op → decode port bs = .ok (i, rest) →
    i.wf = true ∧ (encode i).port = port ∧ bs = (encode i).bytes ++ rest

/-- R70, S1, V-CMD: words written out from the spec decode to what they stand for. (That the table word of a `CMD` byte
stands for SEND with an empty payload is the model's choice, log 9.) -/
def Obligations.SpecWordsDecodeAsWritten : Prop :=
  decodeTableWord 8 0 = some .reserved0 ∧ decodeTableWord 8 1 = some .connect ∧
  decodeTableWord 8 2 = some .disconnect ∧ decodeTableWord 8 3 = some .enc ∧ decodeTableWord 8 4 = some .send ∧
  decodeTableWord 8 5 = some .recv ∧ decodeTableWord 8 6 = some .xfer ∧ decodeTableWord 8 7 = some .reserved7 ∧
  decodeTableWord 8 0x81 = some (.cmdQueryAlarm .send []) ∧ decodeTableWord 8 0x8A = some (.cmdClearAlarms .send []) ∧
  decodeTableWord 8 0xCF = some (.cmdReboot .send []) ∧ decodeTableWord 8 0x10 = some (.cmdOther 0x10#8 .send []) ∧
  decode .frameOut [0xAA#8, 0xAA#8, 0x02#8, 0x8A#8, 0x00#8, 0x8C#8, 0x0D#8, 0x0A#8] =
    .ok (.frame .built 0x8A#8 0x00#8 [], [])

/-! ## Steps -/

/-- R115: a step whose input is a word that decodes to `i` is exec of `i`, at the state in which the input is taken and,
for a code of `OP` presented at `BUSY = 0`, the register holds it. (That `OP` takes the code just then is the model's
reading, log 13; the list of inputs is its own, log 12.) -/
def Obligations.StepRunsTheDecodedInstruction : Prop :=
  ∀ (s : State) (w : HostWord) (rest : List Input) (i : Instr), s.inputs = .present w :: rest →
    decodeWord w = .ok i →
      step s = exec i
        (if w.port = .op ∧ s.busy = false then
          { s with inputs := rest, opr := { s.opr with op := encodeOp i } }
        else { s with inputs := rest })

/-- R71, R101 to R105: bytes that the transport delivers with nothing waiting before them, and the link open, have
their effect whatever they are: a wrong start is `BadHeader` after two bytes, `AA AA L` and `L + 3` bytes are a frame
delivered with its flags, and too few bytes are `Truncated`; bytes after these wait. With `BUSY = 1` the bytes only
wait; with the link closed nothing is consumed. (That bytes at this port are a delivery and a RECV is the model's
reading, log 10; that bytes too few are followed by `End`, as in R110, is its choice, log 22.) -/
def Obligations.DeliveredBytesAreReceivedWhateverTheyAre : Prop :=
  ∀ (s : State) (bs : List Byte) (rest : List Input), s.inputs = .present ⟨.frameIn, bs⟩ :: rest →
    (s.busy = true → ∃ items,
      (items = bs.map RxItem.byte ∨ items = bs.map RxItem.byte ++ [.streamEnd]) ∧
        step s = .next { s with inputs := rest, rx := { s.rx with ahead := s.rx.ahead ++ items } }) ∧
    (s.busy = false → s.linkOpen = false →
      ∃ t, step s = .next t ∧ t.status = 1#3 ∧ t.rx.pos = s.rx.pos ∧ holdsNoFrame t.dec ∧
        t = { s with inputs := rest, rx := t.rx, dec := t.dec, status := 1#3, opr := { s.opr with op := 5#3 } }) ∧
    (s.busy = false → s.linkOpen = true → s.rx.ahead = [] →
      ∃ t, step s = .next t ∧
        (∀ a b tl, bs = a :: b :: tl → ¬(a = 0xAA#8 ∧ b = 0xAA#8) →
          t.status = 2#3 ∧ holdsNoFrame t.dec ∧
            t.rx = { s.rx with pos := s.rx.pos + 2, ahead := tl.map RxItem.byte }) ∧
        (∀ l tr tl, bs = 0xAA#8 :: 0xAA#8 :: l :: (tr ++ tl) → tr.length = l.toNat + 3 →
          t.status = 0#3 ∧ holdsReceived ⟨l, tr⟩ t.dec ∧
            t.rx = { s.rx with pos := s.rx.pos + l.toNat + 6, ahead := tl.map RxItem.byte }) ∧
        ((bs.length < 2 ∨ bs = [0xAA#8, 0xAA#8] ∨
            ∃ l tr, bs = 0xAA#8 :: 0xAA#8 :: l :: tr ∧ tr.length < l.toNat + 3) →
          t.status = 3#3 ∧ holdsNoFrame t.dec ∧ t.rx = { s.rx with pos := s.rx.pos + bs.length + 1 }) ∧
        t = { s with
              inputs := rest, rx := t.rx, dec := t.dec, status := t.status, opr := { s.opr with op := 5#3 } })

/-- R42, R140, R210, R226: while time passes the block takes one step, the step it takes with no input, and the other
inputs wait, so that a reset can follow any number of steps; between operations nothing happens, and while a read does
not return nothing but that this is then known, so that only a reset leaves it. (The list of inputs is the model's own,
log 12; the fault that stands for no step is its form, log 11.) -/
def Obligations.ElapseTakesOneStepOfTheBlock : Prop :=
  ∀ (s : State) (rest : List Input), s.inputs = .elapse :: rest →
    (s.busy = false → step s = .next { s with inputs := rest }) ∧
    (s.busy = true →
      (∀ t, step { s with inputs := [] } = .next t → step s = .next { t with inputs := rest }) ∧
      (step { s with inputs := [] } = .fault .readNeverReturns →
        ∃ t, step s = .next t ∧ t.hung = true ∧ t.rx.pos = s.rx.pos ∧ t = { s with inputs := rest, rx := t.rx }))

/-- R141, R213: the issue step. Ignored while `BUSY = 1`; otherwise CONNECT, DISCONNECT and the reserved codes complete
as whole operations; ENC, SEND and XFER clear `FLEN` and either report `InvalidArgument` or latch their operands, send
only with the link open and go on to receive only in an XFER; RECV clears the decoder result registers and either
reports `TransportNotOpen` or starts the decoder. (That `OP` holds the code is the model's reading, log 13; the list of
inputs is its own, log 12, and of `hostFault` UnwrittenOperandMarksTheRun speaks.) -/
def Obligations.SerialIssueFollowsItsRule : Prop :=
  ∀ (s : State) (op : BitVec 3) (rest : List Input), s.inputs = .presentSerial op :: rest →
    let s0 : State := { s with inputs := rest }
    let s1 : State := { s0 with opr := { s.opr with op := op } }
    (s.busy = true → step s = .next s0) ∧
    (s.busy = false →
      ((op = 0#3 ∨ op = 7#3) → step s = .next { s1 with status := 4#3 }) ∧
      (op = 1#3 → step s = exec .connect s1) ∧
      (op = 2#3 → step s = exec .disconnect s1) ∧
      ((op = 3#3 ∨ op = 4#3 ∨ op = 6#3) →
        ∃ t, step s = .next t ∧
          (253 < (samplePlen s).toNat →
            t = { s1 with enc := { s.enc with flen := 0#9 }, status := 4#3, hostFault := t.hostFault }) ∧
          ((samplePlen s).toNat ≤ 253 →
            t.em.plen.toNat = (samplePlen s).toNat ∧
            t = { s1 with
                  enc := { s.enc with flen := 0#9 }
                  busy := true
                  hostFault := t.hostFault
                  em := { s.em with
                          state := .hdr0
                          cmd := sampleCmdId s
                          seq := if op = 3#3 then sampleSeqIn s else s.seq
                          plen := t.em.plen
                          send := op ≠ 3#3 ∧ s.linkOpen = true
                          nolink := op ≠ 3#3 ∧ s.linkOpen = false
                          xRecv := op = 6#3 ∧ s.linkOpen = true } })) ∧
      (op = 5#3 →
        let d : DecoderRegs := { s.dec with rxLen := 0#8, rxCnt := 0#9, flags := Flags.clear }
        (s.linkOpen = false → step s = .next { s1 with dec := d, status := 1#3 }) ∧
        (s.linkOpen = true →
          step s = .next { s1 with dec := d, busy := true, dm := { s.dm with state := .hdr0 } })))

/-- R143, R144: the encoder step, row by row: it produces one byte, in `FBUF` and, when `e_send = 1`, in `TX`, and
moves on. -/
def Obligations.EncoderStepFollowsItsRow : Prop :=
  ∀ s : State, s.inputs = [] → s.busy = true → s.em.state ≠ .idle → s.em.state ≠ .fin1 → s.enc.flen.toNat < 261 →
    let m := s.em
    let b : Byte := match m.state with
      | .hdr0 => 0xAA#8
      | .hdr1 => 0xAA#8
      | .len => m.plen + 2#8
      | .cmd => m.cmd
      | .seq => m.seq
      | .pay => sampleTxByte s m.idx.toNat
      | .chk => m.sum
      | .fin0 => 0x0D#8
      | .fin1 => 0x0A#8
      | .idle => 0#8
    let m' : EncMachine := match m.state with
      | .hdr0 => { m with state := .hdr1 }
      | .hdr1 => { m with state := .len }
      | .len => { m with state := .cmd, sum := b }
      | .cmd => { m with state := .seq, sum := m.sum + b }
      | .seq => { m with state := if 0 < m.plen.toNat then .pay else .chk, sum := m.sum + b, idx := 0#8 }
      | .pay =>
        { m with
          state := if (m.idx + 1#8).toNat < m.plen.toNat then .pay else .chk
          sum := m.sum + b
          idx := m.idx + 1#8 }
      | .chk => { m with state := .fin0 }
      | .fin0 => { m with state := .fin1 }
      | .fin1 => m
      | .idle => m
    ∃ t, step s = .next t ∧ t.enc.flen.toNat = s.enc.flen.toNat + 1 ∧
      (∀ a, Memory.read t.enc.fbuf a = if a = s.enc.flen.toNat then some b else Memory.read s.enc.fbuf a) ∧
      t = { s with enc := t.enc, em := m', tx := if m.send then s.tx ++ [b] else s.tx }

/-- R144, R145: the last encoder step produces `0x0A` and completes the operation: without a link the frame is not
sent; ENC is done; a SEND advances `SEQ` and is done; an XFER advances `SEQ` and goes on to its RECV half. -/
def Obligations.EncoderCompletionFollowsItsRule : Prop :=
  ∀ s : State, s.inputs = [] → s.busy = true → s.em.state = .fin1 → s.enc.flen.toNat < 261 →
    ∃ t, step s = .next t ∧ t.em = { s.em with state := .idle } ∧ t.enc.flen.toNat = s.enc.flen.toNat + 1 ∧
      (∀ a, Memory.read t.enc.fbuf a = if a = s.enc.flen.toNat then some 0x0A#8 else Memory.read s.enc.fbuf a) ∧
      t.tx = (if s.em.send then s.tx ++ [0x0A#8] else s.tx) ∧ t.rx = s.rx ∧ t.linkOpen = s.linkOpen ∧
      t.opr = s.opr ∧
      (s.em.nolink = true → t.status = 1#3 ∧ t.busy = false ∧ t.seq = s.seq ∧ t.dec = s.dec ∧ t.dm = s.dm) ∧
      (s.em.nolink = false → s.em.send = false →
        t.status = 0#3 ∧ t.busy = false ∧ t.seq = s.seq ∧ t.dec = s.dec ∧ t.dm = s.dm) ∧
      (s.em.nolink = false → s.em.send = true → s.em.xRecv = false →
        t.status = 0#3 ∧ t.busy = false ∧ t.seq = s.seq + 1#8 ∧ t.dec = s.dec ∧ t.dm = s.dm) ∧
      (s.em.nolink = false → s.em.send = true → s.em.xRecv = true →
        t.status = s.status ∧ t.busy = true ∧ t.seq = s.seq + 1#8 ∧ t.dm = { s.dm with state := .hdr0 } ∧
        t.dec = { s.dec with rxLen := 0#8, rxCnt := 0#9, flags := Flags.clear })

/-- R42, R151, R153: the decoder step takes one item, fixed or free; `End` in any state, or a header that does not match,
is the error completion; the header and length bytes are taken as their rows say. On `Never` it waits for ever. (That
the wait is the fault of a read that never returns is the model's form for no step, log 11; free items are log 2.) -/
def Obligations.DecoderStepTakesOneItem : Prop :=
  ∀ (s : State) (it : RxItem) (r : RxStream), s.inputs = [] → s.busy = true → s.em.state = .idle →
    s.dm.state ≠ .idle → takesItem s.rx it r →
      let failed (k : BitVec 3) : State :=
        { s with
          rx := r, busy := false, status := k, dm := { s.dm with state := .idle }
          dec := { s.dec with rxLen := 0#8, rxCnt := 0#9, flags := Flags.clear } }
      (it = .never → step s = .fault .readNeverReturns) ∧
      (it = .streamEnd → step s = .next (failed 3#3)) ∧
      (∀ b, it = .byte b → s.dm.state = .hdr0 →
        step s = .next { s with rx := r, dm := { s.dm with state := .hdr1, h0 := b } }) ∧
      (∀ b, it = .byte b → s.dm.state = .hdr1 → s.dm.h0 = 0xAA#8 → b = 0xAA#8 →
        step s = .next { s with rx := r, dm := { s.dm with state := .len } }) ∧
      (∀ b, it = .byte b → s.dm.state = .hdr1 → ¬(s.dm.h0 = 0xAA#8 ∧ b = 0xAA#8) →
        step s = .next (failed 2#3)) ∧
      (∀ b, it = .byte b → s.dm.state = .len →
        ∃ n : Count, n.toNat = b.toNat + 3 ∧
          step s = .next { s with
            rx := r, dec := { s.dec with rxLen := b }, dm := { s.dm with state := .body, rem := n, sum := b } })

/-- R151, R152, R154: the decoder step for a byte of the body: it is stored at `RX_CNT`, the validator is updated by
the one line that applies, and the byte that brings `d_rem` to 0 completes the operation. -/
def Obligations.DecoderBodyStoresAndValidates : Prop :=
  ∀ (s : State) (b : Byte) (rest : List RxItem), s.inputs = [] → s.busy = true → s.em.state = .idle →
    s.dm.state = .body → s.rx.ahead = .byte b :: rest → s.dec.rxCnt.toNat < 258 → 0 < s.dm.rem.toNat →
      let i := s.dec.rxCnt.toNat
      let n := s.dec.rxLen.toNat
      let chkOk := if i = n then b == s.dm.sum else s.dec.flags.chkOk
      let endOk := if i = n + 2 then s.dm.e0 && b == 0x0A#8 else s.dec.flags.endOk
      ∃ t, step s = .next t ∧ t.rx = { s.rx with pos := s.rx.pos + 1, ahead := rest } ∧
        t.dec.rxLen = s.dec.rxLen ∧ t.dec.rxCnt.toNat = i + 1 ∧
        (∀ a, Memory.read t.dec.rxbuf a = if a = i then some b else Memory.read s.dec.rxbuf a) ∧
        t.dm.rem.toNat + 1 = s.dm.rem.toNat ∧ t.dm.sum = (if i < n then s.dm.sum + b else s.dm.sum) ∧
        t.dm.e0 = (if i = n + 1 then b == 0x0D#8 else s.dm.e0) ∧ t.dm.h0 = s.dm.h0 ∧
        (1 < s.dm.rem.toNat → t.dm.state = .body ∧ t.busy = true ∧ t.status = s.status ∧
          t.dec.flags = { s.dec.flags with chkOk := chkOk, endOk := endOk }) ∧
        (s.dm.rem.toNat = 1 → t.dm.state = .idle ∧ t.busy = false ∧ t.status = 0#3 ∧
          t.dec.flags = ⟨decide (2 ≤ n), chkOk, endOk, decide (2 ≤ n) && chkOk && endOk⟩) ∧
        t = { s with rx := t.rx, dec := t.dec, dm := t.dm, busy := t.busy, status := t.status }

/-! ## Invariants -/

/-- R14, R16, R17, R19, R20, R49, R140: every step keeps the layout of the state. -/
def Obligations.StepKeepsLayout : Prop := ∀ s t : State, s.layout = true → step s = .next t → t.layout = true

/-- The state after reset has the layout. -/
def Obligations.ResetHasLayout : Prop := State.reset.layout = true

/-- R16, R18, R104, R144, R152: every step keeps what the registers hold true to the bytes: a frame in the making is a
part of the frame of its operands, a frame in `FBUF` is valid, and the flags are those of the bytes received. -/
def Obligations.StepKeepsContents : Prop :=
  ∀ s t : State, s.layout = true → s.contents = true → step s = .next t → t.contents = true

/-- R41, R50, R119: every step keeps `TX` a concatenation of valid frames and the part sent of the frame in progress. -/
def Obligations.StepKeepsTxWholeFrames : Prop :=
  ∀ s t : State, s.layout = true → s.contents = true → s.txWhole → step s = .next t → t.txWhole

/-- The state after reset has the contents, and nothing sent. -/
def Obligations.ResetHasContentsAndNothingSent : Prop := State.reset.contents = true ∧ State.reset.txWhole

/-- R49, R140: in a state with the layout no step forms an index that a buffer does not have, unless the host itself
presents one, and a busy block has a step to take. -/
def Obligations.LayoutExcludesMachineFaults : Prop :=
  ∀ s : State, s.layout = true → s.inputs = [] →
    step s ≠ .fault .bufferIndexOutOfRange ∧ step s ≠ .fault .noStepEnabled

/-! ## The two realisations -/

/-- R157: an operation issued byte by byte and one carried out whole, from the same state, agree when `BUSY` returns to
0, which it does after the number of steps R157 gives and not before. -/
def Obligations.SerialRealisationAgrees : Prop :=
  ∀ (op : BitVec 3) (s t : State), s.idle = true →
    Host.Core.run core 1 { s with inputs := [.present ⟨.op, [op.setWidth 8]⟩] } = .next t → t.busy = false →
      let start : State := { s with inputs := [.presentSerial op] }
      let n := serialSteps (decodeOp op) s t
      (∃ u, Host.Core.run core (1 + n) start = .next u ∧ u.idle = true ∧ Agree u t) ∧
      ∀ k, k < n → ∃ u, Host.Core.run core (1 + k) start = .next u ∧ u.busy = true

/-- R42, R157: when the operation carried out whole never completes, the byte-serial one comes to a step that never
returns, with the same bytes sent, the same `SEQ` and the same items consumed. (What a whole operation leaves there, and
so the agreement on the decoder state and on `RX_POS`, is the model's reading of R42, logs 6 and 11.) -/
def Obligations.SerialRealisationHangsWhereWholeOneDoes : Prop :=
  ∀ (op : BitVec 3) (s t : State), s.idle = true →
    Host.Core.run core 1 { s with inputs := [.present ⟨.op, [op.setWidth 8]⟩] } = .next t → t.busy = true →
      ∃ n u, Host.Core.run core n { s with inputs := [.presentSerial op] } = .next u ∧ u.busy = true ∧
        step u = .fault .readNeverReturns ∧ u.tx = t.tx ∧ u.seq = t.seq ∧ u.status = t.status ∧
        u.rx.pos = t.rx.pos ∧ u.dm.state = t.dm.state

/-- R157: every operation carried out whole completes if the items it reads are `Byte` or `End`: with 261 such items
fixed ahead, no host operation leaves the block busy. -/
def Obligations.OperationsCompleteWhenReadsReturn : Prop :=
  ∀ s : State, s.busy = false → 261 ≤ s.rx.ahead.length → RxItem.never ∉ s.rx.ahead →
    ∀ i ∈ [Instr.reserved0, .connect, .disconnect, .enc, .send, .recv, .xfer, .reserved7],
      ∃ t, exec i s = .next t ∧ t.busy = false
end

