-- ==== Sys2Proof/Laws/Codec.lean ====
section
/-! SUPPORT. The laws of the frame layout and of the encoder function. -/

namespace Sys2Proof

@[simp] theorem byteSum_nil : byteSum [] = 0 := rfl

@[simp] theorem byteSum_cons (b : Byte) (bs : List Byte) : byteSum (b :: bs) = b.toNat + byteSum bs := rfl

theorem byteSum_append (as bs : List Byte) : byteSum (as ++ bs) = byteSum as + byteSum bs := by
  simp [byteSum]

/-- The checksum accumulates byte by byte, the carries discarded (R64). -/
theorem checksum_append_singleton (bs : List Byte) (b : Byte) : checksum (bs ++ [b]) = checksum bs + b := by
  simp only [checksum, byteSum_append, byteSum_cons, byteSum_nil]
  apply BitVec.eq_of_toNat_eq
  simp [BitVec.toNat_add]

theorem checksum_singleton (b : Byte) : checksum [b] = b := by
  apply BitVec.eq_of_toNat_eq; simp [checksum]

/-- The length byte of a payload a frame can hold (R63): it never wraps. -/
theorem lenByte_toNat {payload : List Byte} (h : payload.length ≤ 253) :
    (lenByte payload).toNat = payload.length + 2 := by
  simp only [lenByte, Config.lenBias, BitVec.toNat_ofNat]; omega

@[simp] theorem frameBody_length (cmd seq : Byte) (payload : List Byte) :
    (frameBody cmd seq payload).length = payload.length + 3 := by simp [frameBody]

/-- A frame is its payload and 8 bytes (R60). -/
@[simp] theorem frameBytes_length (cmd seq : Byte) (payload : List Byte) :
    (frameBytes cmd seq payload).length = payload.length + 8 := by simp [frameBytes]

/-- The frame after its length byte. -/
theorem frameBytes_eq (cmd seq : Byte) (payload : List Byte) :
    frameBytes cmd seq payload =
      0xAA#8 :: 0xAA#8 :: lenByte payload :: cmd :: seq ::
        (payload ++ [checksum (frameBody cmd seq payload), 0x0D#8, 0x0A#8]) := rfl

end Sys2Proof

namespace Sys2Proof.Machine

/-- `encode` accepts exactly the arguments R91 does not refuse. -/
theorem encodeFrame_ok_iff (c q : Int) (p f : List Byte) :
    encodeFrame c q p = .ok f ↔
      (0 ≤ c ∧ c ≤ 255) ∧ (0 ≤ q ∧ q ≤ 255) ∧ p.length ≤ 253 ∧
        f = frameBytes (BitVec.ofInt 8 c) (BitVec.ofInt 8 q) p := by
  unfold encodeFrame
  split
  · simp only [reduceCtorEq, false_iff]; tauto
  · split
    · simp only [reduceCtorEq, false_iff]; tauto
    · split
      · next h => simp only [Config.maxPayload] at h; simp; omega
      · next h1 h2 h3 =>
        simp only [Config.maxPayload] at h3
        have h3' : p.length ≤ 253 := by omega
        simp only [Except.ok.injEq]
        constructor
        · intro h; exact ⟨by tauto, by tauto, h3', h.symm⟩
        · intro h; exact h.2.2.2.symm

/-- The one error of `encode` (R91). -/
theorem encodeFrame_error {c q : Int} {p : List Byte} {k : ErrorKind} (h : encodeFrame c q p = .error k) :
    k = .invalidArgument := by
  unfold encodeFrame at h
  split at h
  · cases h; rfl
  · split at h
    · cases h; rfl
    · split at h
      · cases h; rfl
      · cases h

/-- `encode` on bytes, as the registers hold them: only the payload's length can be refused. -/
theorem encodeFrame_bytes (c q : Byte) (p : List Byte) :
    encodeFrame c.toNat q.toNat p = if p.length ≤ 253 then .ok (frameBytes c q p) else .error .invalidArgument := by
  have hc := c.isLt
  have hq := q.isLt
  have h1 : (0 : Int) ≤ c.toNat ∧ (c.toNat : Int) ≤ 255 := by omega
  have h2 : (0 : Int) ≤ q.toNat ∧ (q.toNat : Int) ≤ 255 := by omega
  unfold encodeFrame
  by_cases h : p.length ≤ 253
  · simp [h1, h2, h, show ¬253 < p.length by omega]
  · simp [h1, h2, h, show 253 < p.length by omega]

@[simp] theorem samplePayload_length (s : State) : (samplePayload s).length = (samplePlen s).toNat := by
  simp [samplePayload]

/-- The frame ENC, SEND and XFER build, or their refusal (R118, R119). -/
theorem encodeOperands_eq (seq : Byte) (s : State) :
    encodeOperands seq s =
      if (samplePlen s).toNat ≤ 253 then .ok (frameBytes (sampleCmdId s) seq (samplePayload s))
      else .error .invalidArgument := by
  unfold encodeOperands plenTooLong
  by_cases h : (samplePlen s).toNat ≤ 253
  · simp [encodeFrame_bytes, h, show ¬253 < (samplePlen s).toNat by omega]
  · simp [h, show 253 < (samplePlen s).toNat by omega]

end Sys2Proof.Machine
end

