-- ==== Sys2Proof/Laws/Memory.lean ====
section
/-! SUPPORT. The laws of byte buffers: a read after a write, and that every operation keeps the canonical form. -/

namespace Sys2Proof.Machine

@[simp] theorem Memory.read_nil (a : Nat) : Memory.read [] a = none := rfl

/-- A read after a write: the byte written at its own index, the old byte everywhere else. -/
theorem Memory.read_write (m : Memory) (a c : Nat) (b : Byte) :
    Memory.read (Memory.write m a b) c = if a = c then some b else Memory.read m c := by
  induction m with
  | nil => simp [Memory.write, Memory.read]
  | cons e m ih =>
    obtain ⟨k, v⟩ := e
    simp only [Memory.write]
    split
    · by_cases h : a = c <;> simp [Memory.read, h]
    · split
      · next h => subst h; by_cases h : a = c <;> simp [Memory.read, h]
      · next hlt hne =>
        by_cases hk : k = c
        · have hac : a ≠ c := by omega
          simp [Memory.read, hk, hac]
        · simp [Memory.read, hk, ih]

theorem Memory.read_write_self (m : Memory) (a : Nat) (b : Byte) :
    Memory.read (Memory.write m a b) a = some b := by simp [Memory.read_write]

theorem Memory.read_write_other (m : Memory) {a c : Nat} (b : Byte) (h : a ≠ c) :
    Memory.read (Memory.write m a b) c = Memory.read m c := by simp [Memory.read_write, h]

/-- A buffer that holds a list of bytes holds each at its index, and nothing else. -/
theorem Memory.read_ofBytes (bs : List Byte) (a c : Nat) :
    Memory.read (Memory.ofBytes a bs) c = if a ≤ c then bs[c - a]? else none := by
  induction bs generalizing a with
  | nil => simp [Memory.ofBytes]
  | cons b bs ih =>
    simp only [Memory.ofBytes, Memory.read, ih]
    by_cases h : a = c
    · subst h; simp
    · by_cases hle : a + 1 ≤ c
      · obtain ⟨d, rfl⟩ : ∃ d, c = a + 1 + d := ⟨c - (a + 1), by omega⟩
        have : a + 1 + d - a = d + 1 := by omega
        simp [h, show a ≤ a + 1 + d by omega, this]
      · simp [h, hle, show ¬a ≤ c by omega]

@[simp] theorem Memory.read_ofBytes_zero (bs : List Byte) (c : Nat) :
    Memory.read (Memory.ofBytes 0 bs) c = bs[c]? := by simp [Memory.read_ofBytes]

/-- A read after several writes at successive indices. -/
theorem Memory.read_writeBytes (bs : List Byte) (m : Memory) (a c : Nat) :
    Memory.read (Memory.writeBytes m a bs) c =
      if a ≤ c ∧ c < a + bs.length then bs[c - a]? else Memory.read m c := by
  induction bs generalizing m a with
  | nil => simp [Memory.writeBytes]
  | cons b bs ih =>
    simp only [Memory.writeBytes, ih, Memory.read_write, List.length_cons]
    by_cases h : a = c
    · subst h; simp
    · by_cases hin : a + 1 ≤ c ∧ c < a + 1 + bs.length
      · have hd : c - a = (c - (a + 1)) + 1 := by omega
        rw [if_pos hin, if_pos (by omega), hd, List.getElem?_cons_succ]
      · rw [if_neg hin, if_neg h, if_neg (by omega)]

/-! ## The canonical form -/

theorem Memory.wfFrom_mono {lo lo' hi : Nat} (h : lo' ≤ lo) :
    ∀ {m : Memory}, Memory.wfFrom lo hi m = true → Memory.wfFrom lo' hi m = true
  | [], _ => rfl
  | (k, v) :: m, hm => by
    simp only [Memory.wfFrom, Bool.and_eq_true, decide_eq_true_eq] at hm ⊢
    exact ⟨⟨by omega, hm.1.2⟩, hm.2⟩

theorem Memory.wfFrom_write {hi a : Nat} {b : Byte} (ha : a < hi) :
    ∀ {m : Memory} {lo : Nat}, lo ≤ a → Memory.wfFrom lo hi m = true →
      Memory.wfFrom lo hi (Memory.write m a b) = true
  | [], lo, hlo, _ => by simp [Memory.write, Memory.wfFrom, hlo, ha]
  | (k, v) :: m, lo, hlo, hm => by
    simp only [Memory.wfFrom, Bool.and_eq_true, decide_eq_true_eq] at hm
    simp only [Memory.write]
    split
    · simp only [Memory.wfFrom, Bool.and_eq_true, decide_eq_true_eq]
      exact ⟨⟨hlo, ha⟩, ⟨by omega, hm.1.2⟩, hm.2⟩
    · split
      · next h => subst h; simp [Memory.wfFrom, hlo, ha, hm.2]
      · simp only [Memory.wfFrom, Bool.and_eq_true, decide_eq_true_eq]
        exact ⟨hm.1, Memory.wfFrom_write ha (by omega) hm.2⟩

/-- A write within the buffer keeps the canonical form. -/
theorem Memory.wf_write {size a : Nat} {b : Byte} {m : Memory} (ha : a < size) (hm : Memory.wf size m = true) :
    Memory.wf size (Memory.write m a b) = true := Memory.wfFrom_write ha (Nat.zero_le a) hm

/-- Writes within the buffer keep the canonical form. -/
theorem Memory.wf_writeBytes {size : Nat} (bs : List Byte) {m : Memory} {a : Nat} (ha : a + bs.length ≤ size)
    (hm : Memory.wf size m = true) : Memory.wf size (Memory.writeBytes m a bs) = true := by
  induction bs generalizing m a with
  | nil => exact hm
  | cons b bs ih =>
    simp only [List.length_cons] at ha
    exact ih (by omega) (Memory.wf_write (by omega) hm)

theorem Memory.wfFrom_ofBytes {hi : Nat} (bs : List Byte) {a : Nat} (h : a + bs.length ≤ hi) :
    Memory.wfFrom a hi (Memory.ofBytes a bs) = true := by
  induction bs generalizing a with
  | nil => rfl
  | cons b bs ih =>
    simp only [List.length_cons] at h
    simp only [Memory.ofBytes, Memory.wfFrom, Bool.and_eq_true, decide_eq_true_eq]
    exact ⟨⟨Nat.le_refl a, by omega⟩, ih (by omega)⟩

/-- A buffer that holds just a list of bytes is in canonical form. -/
theorem Memory.wf_ofBytes {size : Nat} {bs : List Byte} (h : bs.length ≤ size) :
    Memory.wf size (Memory.ofBytes 0 bs) = true := Memory.wfFrom_ofBytes bs (by omega)

@[simp] theorem Memory.wf_nil (size : Nat) : Memory.wf size [] = true := rfl

end Sys2Proof.Machine
end

