-- ==== Sys2Proof/Laws/State.lean ====
section
/-! SUPPORT. For each named update of State, what each field is after it: one lemma per field per update, so that no
later proof unfolds a record update. -/

namespace Sys2Proof.Machine

/-! ### setStatus -/

@[simp] theorem setStatus_seq (v : BitVec 3) (s : State) : (setStatus v s).seq = s.seq := rfl
@[simp] theorem setStatus_linkOpen (v : BitVec 3) (s : State) : (setStatus v s).linkOpen = s.linkOpen := rfl
@[simp] theorem setStatus_tx (v : BitVec 3) (s : State) : (setStatus v s).tx = s.tx := rfl
@[simp] theorem setStatus_rx (v : BitVec 3) (s : State) : (setStatus v s).rx = s.rx := rfl
@[simp] theorem setStatus_status (v : BitVec 3) (s : State) : (setStatus v s).status = v := rfl
@[simp] theorem setStatus_busy (v : BitVec 3) (s : State) : (setStatus v s).busy = s.busy := rfl
@[simp] theorem setStatus_opr (v : BitVec 3) (s : State) : (setStatus v s).opr = s.opr := rfl
@[simp] theorem setStatus_enc (v : BitVec 3) (s : State) : (setStatus v s).enc = s.enc := rfl
@[simp] theorem setStatus_dec (v : BitVec 3) (s : State) : (setStatus v s).dec = s.dec := rfl
@[simp] theorem setStatus_em (v : BitVec 3) (s : State) : (setStatus v s).em = s.em := rfl
@[simp] theorem setStatus_dm (v : BitVec 3) (s : State) : (setStatus v s).dm = s.dm := rfl
@[simp] theorem setStatus_env (v : BitVec 3) (s : State) : (setStatus v s).env = s.env := rfl
@[simp] theorem setStatus_inputs (v : BitVec 3) (s : State) : (setStatus v s).inputs = s.inputs := rfl
@[simp] theorem setStatus_observed (v : BitVec 3) (s : State) : (setStatus v s).observed = s.observed := rfl
@[simp] theorem setStatus_hostFault (v : BitVec 3) (s : State) : (setStatus v s).hostFault = s.hostFault := rfl

/-! ### setLink -/

@[simp] theorem setLink_seq (b : Bool) (s : State) : (setLink b s).seq = s.seq := rfl
@[simp] theorem setLink_linkOpen (b : Bool) (s : State) : (setLink b s).linkOpen = b := rfl
@[simp] theorem setLink_tx (b : Bool) (s : State) : (setLink b s).tx = s.tx := rfl
@[simp] theorem setLink_rx (b : Bool) (s : State) : (setLink b s).rx = s.rx := rfl
@[simp] theorem setLink_status (b : Bool) (s : State) : (setLink b s).status = s.status := rfl
@[simp] theorem setLink_busy (b : Bool) (s : State) : (setLink b s).busy = s.busy := rfl
@[simp] theorem setLink_opr (b : Bool) (s : State) : (setLink b s).opr = s.opr := rfl
@[simp] theorem setLink_enc (b : Bool) (s : State) : (setLink b s).enc = s.enc := rfl
@[simp] theorem setLink_dec (b : Bool) (s : State) : (setLink b s).dec = s.dec := rfl
@[simp] theorem setLink_em (b : Bool) (s : State) : (setLink b s).em = s.em := rfl
@[simp] theorem setLink_dm (b : Bool) (s : State) : (setLink b s).dm = s.dm := rfl
@[simp] theorem setLink_env (b : Bool) (s : State) : (setLink b s).env = s.env := rfl
@[simp] theorem setLink_inputs (b : Bool) (s : State) : (setLink b s).inputs = s.inputs := rfl
@[simp] theorem setLink_observed (b : Bool) (s : State) : (setLink b s).observed = s.observed := rfl
@[simp] theorem setLink_hostFault (b : Bool) (s : State) : (setLink b s).hostFault = s.hostFault := rfl

/-! ### bumpSeq -/

@[simp] theorem bumpSeq_seq (s : State) : (bumpSeq s).seq = s.seq + 1#8 := rfl
@[simp] theorem bumpSeq_linkOpen (s : State) : (bumpSeq s).linkOpen = s.linkOpen := rfl
@[simp] theorem bumpSeq_tx (s : State) : (bumpSeq s).tx = s.tx := rfl
@[simp] theorem bumpSeq_rx (s : State) : (bumpSeq s).rx = s.rx := rfl
@[simp] theorem bumpSeq_status (s : State) : (bumpSeq s).status = s.status := rfl
@[simp] theorem bumpSeq_busy (s : State) : (bumpSeq s).busy = s.busy := rfl
@[simp] theorem bumpSeq_opr (s : State) : (bumpSeq s).opr = s.opr := rfl
@[simp] theorem bumpSeq_enc (s : State) : (bumpSeq s).enc = s.enc := rfl
@[simp] theorem bumpSeq_dec (s : State) : (bumpSeq s).dec = s.dec := rfl
@[simp] theorem bumpSeq_em (s : State) : (bumpSeq s).em = s.em := rfl
@[simp] theorem bumpSeq_dm (s : State) : (bumpSeq s).dm = s.dm := rfl
@[simp] theorem bumpSeq_env (s : State) : (bumpSeq s).env = s.env := rfl
@[simp] theorem bumpSeq_inputs (s : State) : (bumpSeq s).inputs = s.inputs := rfl
@[simp] theorem bumpSeq_observed (s : State) : (bumpSeq s).observed = s.observed := rfl
@[simp] theorem bumpSeq_hostFault (s : State) : (bumpSeq s).hostFault = s.hostFault := rfl

/-! ### txWrite -/

@[simp] theorem txWrite_seq (bs : List Byte) (s : State) : (txWrite bs s).seq = s.seq := rfl
@[simp] theorem txWrite_linkOpen (bs : List Byte) (s : State) : (txWrite bs s).linkOpen = s.linkOpen := rfl
@[simp] theorem txWrite_tx (bs : List Byte) (s : State) : (txWrite bs s).tx = s.tx ++ bs := rfl
@[simp] theorem txWrite_rx (bs : List Byte) (s : State) : (txWrite bs s).rx = s.rx := rfl
@[simp] theorem txWrite_status (bs : List Byte) (s : State) : (txWrite bs s).status = s.status := rfl
@[simp] theorem txWrite_busy (bs : List Byte) (s : State) : (txWrite bs s).busy = s.busy := rfl
@[simp] theorem txWrite_opr (bs : List Byte) (s : State) : (txWrite bs s).opr = s.opr := rfl
@[simp] theorem txWrite_enc (bs : List Byte) (s : State) : (txWrite bs s).enc = s.enc := rfl
@[simp] theorem txWrite_dec (bs : List Byte) (s : State) : (txWrite bs s).dec = s.dec := rfl
@[simp] theorem txWrite_em (bs : List Byte) (s : State) : (txWrite bs s).em = s.em := rfl
@[simp] theorem txWrite_dm (bs : List Byte) (s : State) : (txWrite bs s).dm = s.dm := rfl
@[simp] theorem txWrite_env (bs : List Byte) (s : State) : (txWrite bs s).env = s.env := rfl
@[simp] theorem txWrite_inputs (bs : List Byte) (s : State) : (txWrite bs s).inputs = s.inputs := rfl
@[simp] theorem txWrite_observed (bs : List Byte) (s : State) : (txWrite bs s).observed = s.observed := rfl
@[simp] theorem txWrite_hostFault (bs : List Byte) (s : State) : (txWrite bs s).hostFault = s.hostFault := rfl

/-! ### setRx -/

@[simp] theorem setRx_seq (r : RxStream) (s : State) : (setRx r s).seq = s.seq := rfl
@[simp] theorem setRx_linkOpen (r : RxStream) (s : State) : (setRx r s).linkOpen = s.linkOpen := rfl
@[simp] theorem setRx_tx (r : RxStream) (s : State) : (setRx r s).tx = s.tx := rfl
@[simp] theorem setRx_rx (r : RxStream) (s : State) : (setRx r s).rx = r := rfl
@[simp] theorem setRx_status (r : RxStream) (s : State) : (setRx r s).status = s.status := rfl
@[simp] theorem setRx_busy (r : RxStream) (s : State) : (setRx r s).busy = s.busy := rfl
@[simp] theorem setRx_opr (r : RxStream) (s : State) : (setRx r s).opr = s.opr := rfl
@[simp] theorem setRx_enc (r : RxStream) (s : State) : (setRx r s).enc = s.enc := rfl
@[simp] theorem setRx_dec (r : RxStream) (s : State) : (setRx r s).dec = s.dec := rfl
@[simp] theorem setRx_em (r : RxStream) (s : State) : (setRx r s).em = s.em := rfl
@[simp] theorem setRx_dm (r : RxStream) (s : State) : (setRx r s).dm = s.dm := rfl
@[simp] theorem setRx_env (r : RxStream) (s : State) : (setRx r s).env = s.env := rfl
@[simp] theorem setRx_inputs (r : RxStream) (s : State) : (setRx r s).inputs = s.inputs := rfl
@[simp] theorem setRx_observed (r : RxStream) (s : State) : (setRx r s).observed = s.observed := rfl
@[simp] theorem setRx_hostFault (r : RxStream) (s : State) : (setRx r s).hostFault = s.hostFault := rfl

/-! ### chargeHost -/

@[simp] theorem chargeHost_seq (n : Bool) (s : State) : (chargeHost n s).seq = s.seq := rfl
@[simp] theorem chargeHost_linkOpen (n : Bool) (s : State) : (chargeHost n s).linkOpen = s.linkOpen := rfl
@[simp] theorem chargeHost_tx (n : Bool) (s : State) : (chargeHost n s).tx = s.tx := rfl
@[simp] theorem chargeHost_rx (n : Bool) (s : State) : (chargeHost n s).rx = s.rx := rfl
@[simp] theorem chargeHost_status (n : Bool) (s : State) : (chargeHost n s).status = s.status := rfl
@[simp] theorem chargeHost_busy (n : Bool) (s : State) : (chargeHost n s).busy = s.busy := rfl
@[simp] theorem chargeHost_opr (n : Bool) (s : State) : (chargeHost n s).opr = s.opr := rfl
@[simp] theorem chargeHost_enc (n : Bool) (s : State) : (chargeHost n s).enc = s.enc := rfl
@[simp] theorem chargeHost_dec (n : Bool) (s : State) : (chargeHost n s).dec = s.dec := rfl
@[simp] theorem chargeHost_em (n : Bool) (s : State) : (chargeHost n s).em = s.em := rfl
@[simp] theorem chargeHost_dm (n : Bool) (s : State) : (chargeHost n s).dm = s.dm := rfl
@[simp] theorem chargeHost_env (n : Bool) (s : State) : (chargeHost n s).env = s.env := rfl
@[simp] theorem chargeHost_inputs (n : Bool) (s : State) : (chargeHost n s).inputs = s.inputs := rfl
@[simp] theorem chargeHost_observed (n : Bool) (s : State) : (chargeHost n s).observed = s.observed := rfl
@[simp] theorem chargeHost_hostFault (n : Bool) (s : State) : (chargeHost n s).hostFault = (s.hostFault || readsUnwritten n s) := rfl

/-! ### setOpr -/

@[simp] theorem setOpr_seq (o : OperandRegs) (s : State) : (setOpr o s).seq = s.seq := rfl
@[simp] theorem setOpr_linkOpen (o : OperandRegs) (s : State) : (setOpr o s).linkOpen = s.linkOpen := rfl
@[simp] theorem setOpr_tx (o : OperandRegs) (s : State) : (setOpr o s).tx = s.tx := rfl
@[simp] theorem setOpr_rx (o : OperandRegs) (s : State) : (setOpr o s).rx = s.rx := rfl
@[simp] theorem setOpr_status (o : OperandRegs) (s : State) : (setOpr o s).status = s.status := rfl
@[simp] theorem setOpr_busy (o : OperandRegs) (s : State) : (setOpr o s).busy = s.busy := rfl
@[simp] theorem setOpr_opr (o : OperandRegs) (s : State) : (setOpr o s).opr = o := rfl
@[simp] theorem setOpr_enc (o : OperandRegs) (s : State) : (setOpr o s).enc = s.enc := rfl
@[simp] theorem setOpr_dec (o : OperandRegs) (s : State) : (setOpr o s).dec = s.dec := rfl
@[simp] theorem setOpr_em (o : OperandRegs) (s : State) : (setOpr o s).em = s.em := rfl
@[simp] theorem setOpr_dm (o : OperandRegs) (s : State) : (setOpr o s).dm = s.dm := rfl
@[simp] theorem setOpr_env (o : OperandRegs) (s : State) : (setOpr o s).env = s.env := rfl
@[simp] theorem setOpr_inputs (o : OperandRegs) (s : State) : (setOpr o s).inputs = s.inputs := rfl
@[simp] theorem setOpr_observed (o : OperandRegs) (s : State) : (setOpr o s).observed = s.observed := rfl
@[simp] theorem setOpr_hostFault (o : OperandRegs) (s : State) : (setOpr o s).hostFault = s.hostFault := rfl

/-! ### setDec -/

@[simp] theorem setDec_seq (d : DecoderRegs) (s : State) : (setDec d s).seq = s.seq := rfl
@[simp] theorem setDec_linkOpen (d : DecoderRegs) (s : State) : (setDec d s).linkOpen = s.linkOpen := rfl
@[simp] theorem setDec_tx (d : DecoderRegs) (s : State) : (setDec d s).tx = s.tx := rfl
@[simp] theorem setDec_rx (d : DecoderRegs) (s : State) : (setDec d s).rx = s.rx := rfl
@[simp] theorem setDec_status (d : DecoderRegs) (s : State) : (setDec d s).status = s.status := rfl
@[simp] theorem setDec_busy (d : DecoderRegs) (s : State) : (setDec d s).busy = s.busy := rfl
@[simp] theorem setDec_opr (d : DecoderRegs) (s : State) : (setDec d s).opr = s.opr := rfl
@[simp] theorem setDec_enc (d : DecoderRegs) (s : State) : (setDec d s).enc = s.enc := rfl
@[simp] theorem setDec_dec (d : DecoderRegs) (s : State) : (setDec d s).dec = d := rfl
@[simp] theorem setDec_em (d : DecoderRegs) (s : State) : (setDec d s).em = s.em := rfl
@[simp] theorem setDec_dm (d : DecoderRegs) (s : State) : (setDec d s).dm = s.dm := rfl
@[simp] theorem setDec_env (d : DecoderRegs) (s : State) : (setDec d s).env = s.env := rfl
@[simp] theorem setDec_inputs (d : DecoderRegs) (s : State) : (setDec d s).inputs = s.inputs := rfl
@[simp] theorem setDec_observed (d : DecoderRegs) (s : State) : (setDec d s).observed = s.observed := rfl
@[simp] theorem setDec_hostFault (d : DecoderRegs) (s : State) : (setDec d s).hostFault = s.hostFault := rfl

/-! ### setEm -/

@[simp] theorem setEm_seq (m : EncMachine) (s : State) : (setEm m s).seq = s.seq := rfl
@[simp] theorem setEm_linkOpen (m : EncMachine) (s : State) : (setEm m s).linkOpen = s.linkOpen := rfl
@[simp] theorem setEm_tx (m : EncMachine) (s : State) : (setEm m s).tx = s.tx := rfl
@[simp] theorem setEm_rx (m : EncMachine) (s : State) : (setEm m s).rx = s.rx := rfl
@[simp] theorem setEm_status (m : EncMachine) (s : State) : (setEm m s).status = s.status := rfl
@[simp] theorem setEm_busy (m : EncMachine) (s : State) : (setEm m s).busy = s.busy := rfl
@[simp] theorem setEm_opr (m : EncMachine) (s : State) : (setEm m s).opr = s.opr := rfl
@[simp] theorem setEm_enc (m : EncMachine) (s : State) : (setEm m s).enc = s.enc := rfl
@[simp] theorem setEm_dec (m : EncMachine) (s : State) : (setEm m s).dec = s.dec := rfl
@[simp] theorem setEm_em (m : EncMachine) (s : State) : (setEm m s).em = m := rfl
@[simp] theorem setEm_dm (m : EncMachine) (s : State) : (setEm m s).dm = s.dm := rfl
@[simp] theorem setEm_env (m : EncMachine) (s : State) : (setEm m s).env = s.env := rfl
@[simp] theorem setEm_inputs (m : EncMachine) (s : State) : (setEm m s).inputs = s.inputs := rfl
@[simp] theorem setEm_observed (m : EncMachine) (s : State) : (setEm m s).observed = s.observed := rfl
@[simp] theorem setEm_hostFault (m : EncMachine) (s : State) : (setEm m s).hostFault = s.hostFault := rfl

/-! ### setDm -/

@[simp] theorem setDm_seq (m : DecMachine) (s : State) : (setDm m s).seq = s.seq := rfl
@[simp] theorem setDm_linkOpen (m : DecMachine) (s : State) : (setDm m s).linkOpen = s.linkOpen := rfl
@[simp] theorem setDm_tx (m : DecMachine) (s : State) : (setDm m s).tx = s.tx := rfl
@[simp] theorem setDm_rx (m : DecMachine) (s : State) : (setDm m s).rx = s.rx := rfl
@[simp] theorem setDm_status (m : DecMachine) (s : State) : (setDm m s).status = s.status := rfl
@[simp] theorem setDm_busy (m : DecMachine) (s : State) : (setDm m s).busy = s.busy := rfl
@[simp] theorem setDm_opr (m : DecMachine) (s : State) : (setDm m s).opr = s.opr := rfl
@[simp] theorem setDm_enc (m : DecMachine) (s : State) : (setDm m s).enc = s.enc := rfl
@[simp] theorem setDm_dec (m : DecMachine) (s : State) : (setDm m s).dec = s.dec := rfl
@[simp] theorem setDm_em (m : DecMachine) (s : State) : (setDm m s).em = s.em := rfl
@[simp] theorem setDm_dm (m : DecMachine) (s : State) : (setDm m s).dm = m := rfl
@[simp] theorem setDm_env (m : DecMachine) (s : State) : (setDm m s).env = s.env := rfl
@[simp] theorem setDm_inputs (m : DecMachine) (s : State) : (setDm m s).inputs = s.inputs := rfl
@[simp] theorem setDm_observed (m : DecMachine) (s : State) : (setDm m s).observed = s.observed := rfl
@[simp] theorem setDm_hostFault (m : DecMachine) (s : State) : (setDm m s).hostFault = s.hostFault := rfl

/-! ### setBusy -/

@[simp] theorem setBusy_seq (b : Bool) (s : State) : (setBusy b s).seq = s.seq := rfl
@[simp] theorem setBusy_linkOpen (b : Bool) (s : State) : (setBusy b s).linkOpen = s.linkOpen := rfl
@[simp] theorem setBusy_tx (b : Bool) (s : State) : (setBusy b s).tx = s.tx := rfl
@[simp] theorem setBusy_rx (b : Bool) (s : State) : (setBusy b s).rx = s.rx := rfl
@[simp] theorem setBusy_status (b : Bool) (s : State) : (setBusy b s).status = s.status := rfl
@[simp] theorem setBusy_busy (b : Bool) (s : State) : (setBusy b s).busy = b := rfl
@[simp] theorem setBusy_opr (b : Bool) (s : State) : (setBusy b s).opr = s.opr := rfl
@[simp] theorem setBusy_enc (b : Bool) (s : State) : (setBusy b s).enc = s.enc := rfl
@[simp] theorem setBusy_dec (b : Bool) (s : State) : (setBusy b s).dec = s.dec := rfl
@[simp] theorem setBusy_em (b : Bool) (s : State) : (setBusy b s).em = s.em := rfl
@[simp] theorem setBusy_dm (b : Bool) (s : State) : (setBusy b s).dm = s.dm := rfl
@[simp] theorem setBusy_env (b : Bool) (s : State) : (setBusy b s).env = s.env := rfl
@[simp] theorem setBusy_inputs (b : Bool) (s : State) : (setBusy b s).inputs = s.inputs := rfl
@[simp] theorem setBusy_observed (b : Bool) (s : State) : (setBusy b s).observed = s.observed := rfl
@[simp] theorem setBusy_hostFault (b : Bool) (s : State) : (setBusy b s).hostFault = s.hostFault := rfl

/-! ### clearEnc -/

@[simp] theorem clearEnc_seq (s : State) : (clearEnc s).seq = s.seq := rfl
@[simp] theorem clearEnc_linkOpen (s : State) : (clearEnc s).linkOpen = s.linkOpen := rfl
@[simp] theorem clearEnc_tx (s : State) : (clearEnc s).tx = s.tx := rfl
@[simp] theorem clearEnc_rx (s : State) : (clearEnc s).rx = s.rx := rfl
@[simp] theorem clearEnc_status (s : State) : (clearEnc s).status = s.status := rfl
@[simp] theorem clearEnc_busy (s : State) : (clearEnc s).busy = s.busy := rfl
@[simp] theorem clearEnc_opr (s : State) : (clearEnc s).opr = s.opr := rfl
@[simp] theorem clearEnc_enc (s : State) : (clearEnc s).enc = { s.enc with flen := 0#9 } := rfl
@[simp] theorem clearEnc_dec (s : State) : (clearEnc s).dec = s.dec := rfl
@[simp] theorem clearEnc_em (s : State) : (clearEnc s).em = s.em := rfl
@[simp] theorem clearEnc_dm (s : State) : (clearEnc s).dm = s.dm := rfl
@[simp] theorem clearEnc_env (s : State) : (clearEnc s).env = s.env := rfl
@[simp] theorem clearEnc_inputs (s : State) : (clearEnc s).inputs = s.inputs := rfl
@[simp] theorem clearEnc_observed (s : State) : (clearEnc s).observed = s.observed := rfl
@[simp] theorem clearEnc_hostFault (s : State) : (clearEnc s).hostFault = s.hostFault := rfl

/-! ### hangAt -/

@[simp] theorem hangAt_seq (d : DState) (s : State) : (hangAt d s).seq = s.seq := rfl
@[simp] theorem hangAt_linkOpen (d : DState) (s : State) : (hangAt d s).linkOpen = s.linkOpen := rfl
@[simp] theorem hangAt_tx (d : DState) (s : State) : (hangAt d s).tx = s.tx := rfl
@[simp] theorem hangAt_rx (d : DState) (s : State) : (hangAt d s).rx = s.rx := rfl
@[simp] theorem hangAt_status (d : DState) (s : State) : (hangAt d s).status = s.status := rfl
@[simp] theorem hangAt_busy (d : DState) (s : State) : (hangAt d s).busy = true := rfl
@[simp] theorem hangAt_opr (d : DState) (s : State) : (hangAt d s).opr = s.opr := rfl
@[simp] theorem hangAt_enc (d : DState) (s : State) : (hangAt d s).enc = s.enc := rfl
@[simp] theorem hangAt_dec (d : DState) (s : State) : (hangAt d s).dec = s.dec := rfl
@[simp] theorem hangAt_em (d : DState) (s : State) : (hangAt d s).em = s.em := rfl
@[simp] theorem hangAt_dm (d : DState) (s : State) : (hangAt d s).dm = { s.dm with state := d } := rfl
@[simp] theorem hangAt_env (d : DState) (s : State) : (hangAt d s).env = s.env := rfl
@[simp] theorem hangAt_inputs (d : DState) (s : State) : (hangAt d s).inputs = s.inputs := rfl
@[simp] theorem hangAt_observed (d : DState) (s : State) : (hangAt d s).observed = s.observed := rfl
@[simp] theorem hangAt_hostFault (d : DState) (s : State) : (hangAt d s).hostFault = s.hostFault := rfl

/-! ### dropInput -/

@[simp] theorem dropInput_seq (rest : List Input) (s : State) : (dropInput rest s).seq = s.seq := rfl
@[simp] theorem dropInput_linkOpen (rest : List Input) (s : State) : (dropInput rest s).linkOpen = s.linkOpen := rfl
@[simp] theorem dropInput_tx (rest : List Input) (s : State) : (dropInput rest s).tx = s.tx := rfl
@[simp] theorem dropInput_rx (rest : List Input) (s : State) : (dropInput rest s).rx = s.rx := rfl
@[simp] theorem dropInput_status (rest : List Input) (s : State) : (dropInput rest s).status = s.status := rfl
@[simp] theorem dropInput_busy (rest : List Input) (s : State) : (dropInput rest s).busy = s.busy := rfl
@[simp] theorem dropInput_opr (rest : List Input) (s : State) : (dropInput rest s).opr = s.opr := rfl
@[simp] theorem dropInput_enc (rest : List Input) (s : State) : (dropInput rest s).enc = s.enc := rfl
@[simp] theorem dropInput_dec (rest : List Input) (s : State) : (dropInput rest s).dec = s.dec := rfl
@[simp] theorem dropInput_em (rest : List Input) (s : State) : (dropInput rest s).em = s.em := rfl
@[simp] theorem dropInput_dm (rest : List Input) (s : State) : (dropInput rest s).dm = s.dm := rfl
@[simp] theorem dropInput_env (rest : List Input) (s : State) : (dropInput rest s).env = s.env := rfl
@[simp] theorem dropInput_inputs (rest : List Input) (s : State) : (dropInput rest s).inputs = rest := rfl
@[simp] theorem dropInput_observed (rest : List Input) (s : State) : (dropInput rest s).observed = s.observed := rfl
@[simp] theorem dropInput_hostFault (rest : List Input) (s : State) : (dropInput rest s).hostFault = s.hostFault := rfl

/-! ### deliver -/

@[simp] theorem deliver_seq (items : List RxItem) (s : State) : (deliver items s).seq = s.seq := rfl
@[simp] theorem deliver_linkOpen (items : List RxItem) (s : State) : (deliver items s).linkOpen = s.linkOpen := rfl
@[simp] theorem deliver_tx (items : List RxItem) (s : State) : (deliver items s).tx = s.tx := rfl
@[simp] theorem deliver_rx (items : List RxItem) (s : State) : (deliver items s).rx = { s.rx with ahead := s.rx.ahead ++ items } := rfl
@[simp] theorem deliver_status (items : List RxItem) (s : State) : (deliver items s).status = s.status := rfl
@[simp] theorem deliver_busy (items : List RxItem) (s : State) : (deliver items s).busy = s.busy := rfl
@[simp] theorem deliver_opr (items : List RxItem) (s : State) : (deliver items s).opr = s.opr := rfl
@[simp] theorem deliver_enc (items : List RxItem) (s : State) : (deliver items s).enc = s.enc := rfl
@[simp] theorem deliver_dec (items : List RxItem) (s : State) : (deliver items s).dec = s.dec := rfl
@[simp] theorem deliver_em (items : List RxItem) (s : State) : (deliver items s).em = s.em := rfl
@[simp] theorem deliver_dm (items : List RxItem) (s : State) : (deliver items s).dm = s.dm := rfl
@[simp] theorem deliver_env (items : List RxItem) (s : State) : (deliver items s).env = s.env := rfl
@[simp] theorem deliver_inputs (items : List RxItem) (s : State) : (deliver items s).inputs = s.inputs := rfl
@[simp] theorem deliver_observed (items : List RxItem) (s : State) : (deliver items s).observed = s.observed := rfl
@[simp] theorem deliver_hostFault (items : List RxItem) (s : State) : (deliver items s).hostFault = s.hostFault := rfl

/-! ### answerConnect -/

@[simp] theorem answerConnect_seq (ok : Bool) (s : State) : (answerConnect ok s).seq = s.seq := rfl
@[simp] theorem answerConnect_linkOpen (ok : Bool) (s : State) : (answerConnect ok s).linkOpen = s.linkOpen := rfl
@[simp] theorem answerConnect_tx (ok : Bool) (s : State) : (answerConnect ok s).tx = s.tx := rfl
@[simp] theorem answerConnect_rx (ok : Bool) (s : State) : (answerConnect ok s).rx = s.rx := rfl
@[simp] theorem answerConnect_status (ok : Bool) (s : State) : (answerConnect ok s).status = s.status := rfl
@[simp] theorem answerConnect_busy (ok : Bool) (s : State) : (answerConnect ok s).busy = s.busy := rfl
@[simp] theorem answerConnect_opr (ok : Bool) (s : State) : (answerConnect ok s).opr = s.opr := rfl
@[simp] theorem answerConnect_enc (ok : Bool) (s : State) : (answerConnect ok s).enc = s.enc := rfl
@[simp] theorem answerConnect_dec (ok : Bool) (s : State) : (answerConnect ok s).dec = s.dec := rfl
@[simp] theorem answerConnect_em (ok : Bool) (s : State) : (answerConnect ok s).em = s.em := rfl
@[simp] theorem answerConnect_dm (ok : Bool) (s : State) : (answerConnect ok s).dm = s.dm := rfl
@[simp] theorem answerConnect_env (ok : Bool) (s : State) : (answerConnect ok s).env = { s.env with connectAhead := s.env.connectAhead ++ [ok] } := rfl
@[simp] theorem answerConnect_inputs (ok : Bool) (s : State) : (answerConnect ok s).inputs = s.inputs := rfl
@[simp] theorem answerConnect_observed (ok : Bool) (s : State) : (answerConnect ok s).observed = s.observed := rfl
@[simp] theorem answerConnect_hostFault (ok : Bool) (s : State) : (answerConnect ok s).hostFault = s.hostFault := rfl

/-! ### storeFrame -/

@[simp] theorem storeFrame_seq (r : Except ErrorKind (List Byte)) (s : State) :
    (storeFrame r s).seq = s.seq := by cases r <;> rfl
@[simp] theorem storeFrame_linkOpen (r : Except ErrorKind (List Byte)) (s : State) :
    (storeFrame r s).linkOpen = s.linkOpen := by cases r <;> rfl
@[simp] theorem storeFrame_tx (r : Except ErrorKind (List Byte)) (s : State) :
    (storeFrame r s).tx = s.tx := by cases r <;> rfl
@[simp] theorem storeFrame_rx (r : Except ErrorKind (List Byte)) (s : State) :
    (storeFrame r s).rx = s.rx := by cases r <;> rfl
@[simp] theorem storeFrame_status (r : Except ErrorKind (List Byte)) (s : State) :
    (storeFrame r s).status = s.status := by cases r <;> rfl
@[simp] theorem storeFrame_busy (r : Except ErrorKind (List Byte)) (s : State) :
    (storeFrame r s).busy = s.busy := by cases r <;> rfl
@[simp] theorem storeFrame_opr (r : Except ErrorKind (List Byte)) (s : State) :
    (storeFrame r s).opr = s.opr := by cases r <;> rfl
@[simp] theorem storeFrame_dec (r : Except ErrorKind (List Byte)) (s : State) :
    (storeFrame r s).dec = s.dec := by cases r <;> rfl
@[simp] theorem storeFrame_em (r : Except ErrorKind (List Byte)) (s : State) :
    (storeFrame r s).em = s.em := by cases r <;> rfl
@[simp] theorem storeFrame_dm (r : Except ErrorKind (List Byte)) (s : State) :
    (storeFrame r s).dm = s.dm := by cases r <;> rfl
@[simp] theorem storeFrame_env (r : Except ErrorKind (List Byte)) (s : State) :
    (storeFrame r s).env = s.env := by cases r <;> rfl
@[simp] theorem storeFrame_inputs (r : Except ErrorKind (List Byte)) (s : State) :
    (storeFrame r s).inputs = s.inputs := by cases r <;> rfl
@[simp] theorem storeFrame_observed (r : Except ErrorKind (List Byte)) (s : State) :
    (storeFrame r s).observed = s.observed := by cases r <;> rfl
@[simp] theorem storeFrame_hostFault (r : Except ErrorKind (List Byte)) (s : State) :
    (storeFrame r s).hostFault = s.hostFault := by cases r <;> rfl
@[simp] theorem storeFrame_ok_enc (f : List Byte) (s : State) :
    (storeFrame (.ok f) s).enc = { fbuf := Memory.ofBytes 0 f, flen := BitVec.ofNat 9 f.length } := rfl
@[simp] theorem storeFrame_error_enc (k : ErrorKind) (s : State) :
    (storeFrame (.error k) s).enc = { fbuf := [], flen := 0#9 } := rfl

/-! ### loadCommand and loadSeqIn -/

@[simp] theorem loadCommand_seq (c : Byte) (p : List Byte) (s : State) : (loadCommand c p s).seq = s.seq := rfl
@[simp] theorem loadCommand_linkOpen (c : Byte) (p : List Byte) (s : State) : (loadCommand c p s).linkOpen = s.linkOpen := rfl
@[simp] theorem loadCommand_tx (c : Byte) (p : List Byte) (s : State) : (loadCommand c p s).tx = s.tx := rfl
@[simp] theorem loadCommand_rx (c : Byte) (p : List Byte) (s : State) : (loadCommand c p s).rx = s.rx := rfl
@[simp] theorem loadCommand_status (c : Byte) (p : List Byte) (s : State) : (loadCommand c p s).status = s.status := rfl
@[simp] theorem loadCommand_busy (c : Byte) (p : List Byte) (s : State) : (loadCommand c p s).busy = s.busy := rfl
@[simp] theorem loadCommand_enc (c : Byte) (p : List Byte) (s : State) : (loadCommand c p s).enc = s.enc := rfl
@[simp] theorem loadCommand_dec (c : Byte) (p : List Byte) (s : State) : (loadCommand c p s).dec = s.dec := rfl
@[simp] theorem loadCommand_em (c : Byte) (p : List Byte) (s : State) : (loadCommand c p s).em = s.em := rfl
@[simp] theorem loadCommand_dm (c : Byte) (p : List Byte) (s : State) : (loadCommand c p s).dm = s.dm := rfl
@[simp] theorem loadCommand_env (c : Byte) (p : List Byte) (s : State) : (loadCommand c p s).env = s.env := rfl
@[simp] theorem loadCommand_inputs (c : Byte) (p : List Byte) (s : State) : (loadCommand c p s).inputs = s.inputs := rfl
@[simp] theorem loadCommand_observed (c : Byte) (p : List Byte) (s : State) : (loadCommand c p s).observed = s.observed := rfl
@[simp] theorem loadCommand_hostFault (c : Byte) (p : List Byte) (s : State) : (loadCommand c p s).hostFault = s.hostFault := rfl
@[simp] theorem loadSeqIn_seq (q : Byte) (s : State) : (loadSeqIn q s).seq = s.seq := rfl
@[simp] theorem loadSeqIn_linkOpen (q : Byte) (s : State) : (loadSeqIn q s).linkOpen = s.linkOpen := rfl
@[simp] theorem loadSeqIn_tx (q : Byte) (s : State) : (loadSeqIn q s).tx = s.tx := rfl
@[simp] theorem loadSeqIn_rx (q : Byte) (s : State) : (loadSeqIn q s).rx = s.rx := rfl
@[simp] theorem loadSeqIn_status (q : Byte) (s : State) : (loadSeqIn q s).status = s.status := rfl
@[simp] theorem loadSeqIn_busy (q : Byte) (s : State) : (loadSeqIn q s).busy = s.busy := rfl
@[simp] theorem loadSeqIn_enc (q : Byte) (s : State) : (loadSeqIn q s).enc = s.enc := rfl
@[simp] theorem loadSeqIn_dec (q : Byte) (s : State) : (loadSeqIn q s).dec = s.dec := rfl
@[simp] theorem loadSeqIn_em (q : Byte) (s : State) : (loadSeqIn q s).em = s.em := rfl
@[simp] theorem loadSeqIn_dm (q : Byte) (s : State) : (loadSeqIn q s).dm = s.dm := rfl
@[simp] theorem loadSeqIn_env (q : Byte) (s : State) : (loadSeqIn q s).env = s.env := rfl
@[simp] theorem loadSeqIn_inputs (q : Byte) (s : State) : (loadSeqIn q s).inputs = s.inputs := rfl
@[simp] theorem loadSeqIn_observed (q : Byte) (s : State) : (loadSeqIn q s).observed = s.observed := rfl
@[simp] theorem loadSeqIn_hostFault (q : Byte) (s : State) : (loadSeqIn q s).hostFault = s.hostFault := rfl

/-! ### drawConnect -/

@[simp] theorem drawConnect_seq (s : State) : (drawConnect s).2.seq = s.seq := by
  unfold drawConnect; split <;> rfl
@[simp] theorem drawConnect_linkOpen (s : State) : (drawConnect s).2.linkOpen = s.linkOpen := by
  unfold drawConnect; split <;> rfl
@[simp] theorem drawConnect_tx (s : State) : (drawConnect s).2.tx = s.tx := by
  unfold drawConnect; split <;> rfl
@[simp] theorem drawConnect_rx (s : State) : (drawConnect s).2.rx = s.rx := by
  unfold drawConnect; split <;> rfl
@[simp] theorem drawConnect_status (s : State) : (drawConnect s).2.status = s.status := by
  unfold drawConnect; split <;> rfl
@[simp] theorem drawConnect_busy (s : State) : (drawConnect s).2.busy = s.busy := by
  unfold drawConnect; split <;> rfl
@[simp] theorem drawConnect_opr (s : State) : (drawConnect s).2.opr = s.opr := by
  unfold drawConnect; split <;> rfl
@[simp] theorem drawConnect_enc (s : State) : (drawConnect s).2.enc = s.enc := by
  unfold drawConnect; split <;> rfl
@[simp] theorem drawConnect_dec (s : State) : (drawConnect s).2.dec = s.dec := by
  unfold drawConnect; split <;> rfl
@[simp] theorem drawConnect_em (s : State) : (drawConnect s).2.em = s.em := by
  unfold drawConnect; split <;> rfl
@[simp] theorem drawConnect_dm (s : State) : (drawConnect s).2.dm = s.dm := by
  unfold drawConnect; split <;> rfl
@[simp] theorem drawConnect_inputs (s : State) : (drawConnect s).2.inputs = s.inputs := by
  unfold drawConnect; split <;> rfl
@[simp] theorem drawConnect_observed (s : State) : (drawConnect s).2.observed = s.observed := by
  unfold drawConnect; split <;> rfl
@[simp] theorem drawConnect_hostFault (s : State) : (drawConnect s).2.hostFault = s.hostFault := by
  unfold drawConnect; split <;> rfl

/-! ### The compound updates, down to the named ones -/

@[simp] theorem complete_eq (s : State) : complete s = setStatus statusOk s := rfl
@[simp] theorem raise_eq (k : ErrorKind) (s : State) : raise k s = setStatus k.code s := rfl
@[simp] theorem finish_none (s : State) : finish none s = setStatus statusOk s := rfl
@[simp] theorem finish_some (k : ErrorKind) (s : State) : finish (some k) s = setStatus k.code s := rfl
@[simp] theorem setOp_eq (op : BitVec 3) (s : State) : setOp op s = setOpr { s.opr with op := op } s := rfl
@[simp] theorem storeReceived_eq (f : Frame) (s : State) :
    storeReceived f s = setDec ⟨f.len, Memory.ofBytes 0 f.trail, BitVec.ofNat 9 f.trail.length, validate f⟩ s := rfl
@[simp] theorem storeNoFrame_eq (s : State) : storeNoFrame s = setDec (noFrame []) s := rfl
@[simp] theorem clearDec_eq (s : State) : clearDec s = setDec (noFrame s.dec.rxbuf) s := rfl
@[simp] theorem encTo_eq (e : EState) (s : State) : encTo e s = setEm { s.em with state := e } s := rfl
@[simp] theorem decTo_eq (d : DState) (s : State) : decTo d s = setDm { s.dm with state := d } s := rfl

end Sys2Proof.Machine
end

