-- ==== Sys2Proof/Laws/Operands.lean ====
section
/-! SUPPORT. What an operation samples after a command line has loaded the operand registers, and what a host write of
an operand can do. -/

namespace Sys2Proof.Machine

/-- `TXBUF` after a command line whose payload fits: the payload at its head, the old bytes behind it. -/
theorem read_loadCommand {c : Byte} {p : List Byte} (s : State) (h : p.length ≤ 253) (i : Nat) :
    Memory.read (loadCommand c p s).opr.txbuf i = if i < p.length then p[i]? else Memory.read s.opr.txbuf i := by
  simp [loadCommand, h, Memory.read_writeBytes]

theorem samplePlen_load (o : BitVec 3) (c : Byte) (p : List Byte) (s : State) :
    samplePlen (setOp o (loadCommand c p s)) = BitVec.ofNat 9 p.length := by simp [samplePlen, loadCommand]

theorem toNat_samplePlen_load {p : List Byte} (o : BitVec 3) (c : Byte) (s : State) (h : p.length ≤ 511) :
    (samplePlen (setOp o (loadCommand c p s))).toNat = p.length := by
  simp only [samplePlen_load, BitVec.toNat_ofNat]; omega

theorem sampleCmdId_load (o : BitVec 3) (c : Byte) (p : List Byte) (s : State) :
    sampleCmdId (setOp o (loadCommand c p s)) = c := by simp [sampleCmdId, loadCommand]

/-- The payload sampled after a command line is the line's. -/
theorem samplePayload_load {p : List Byte} (o : BitVec 3) (c : Byte) (s : State) (h : p.length ≤ 253) :
    samplePayload (setOp o (loadCommand c p s)) = p := by
  have hl := toNat_samplePlen_load o c s (show p.length ≤ 511 by omega)
  apply List.ext_getElem
  · simpa using hl
  · intro i _ hi'
    have := read_loadCommand (c := c) s h i
    simp only [hi', if_true, List.getElem?_eq_getElem] at this
    simp [samplePayload, sampleTxByte, setOp, this]

/-- A command line leaves no operand of its SEND or XFER unwritten. -/
theorem readsUnwritten_load {p : List Byte} (o : BitVec 3) (c : Byte) (s : State) (h : p.length ≤ 511) :
    readsUnwritten false (setOp o (loadCommand c p s)) = false := by
  have hl := toNat_samplePlen_load o c s h
  unfold readsUnwritten plenTooLong
  rw [hl]
  have h1 : (loadCommand c p s).opr.plenSet = true := rfl
  have h2 : (loadCommand c p s).opr.cmdIdSet = true := rfl
  by_cases hp : p.length ≤ 253
  · have hr : ∀ i, i < p.length → Memory.read (loadCommand c p s).opr.txbuf i ≠ none := by
      intro i hi
      simp [read_loadCommand s hp i, hi]
    simpa [h1, h2] using fun _ => hr
  · simp [h1, show 253 < p.length by omega]

/-- A command line leaves the host no fault to be charged with. -/
theorem chargeHost_load {p : List Byte} (o : BitVec 3) (c : Byte) (s : State) (h : p.length ≤ 511) :
    chargeHost false (setOp o (loadCommand c p s)) = setOp o (loadCommand c p s) := by
  unfold chargeHost; rw [readsUnwritten_load o c s h, Bool.or_false]

/-- The further write of `SEQ_IN` changes nothing else that is sampled. -/
theorem sample_loadSeqIn (o : BitVec 3) (q : Byte) (s : State) :
    samplePlen (setOp o (loadSeqIn q s)) = samplePlen (setOp o s) ∧
      sampleCmdId (setOp o (loadSeqIn q s)) = sampleCmdId (setOp o s) ∧
      samplePayload (setOp o (loadSeqIn q s)) = samplePayload (setOp o s) ∧
      sampleSeqIn (setOp o (loadSeqIn q s)) = q ∧
      readsUnwritten true (setOp o (loadSeqIn q s)) = readsUnwritten false (setOp o s) :=
  ⟨rfl, rfl, rfl, rfl, by
    simp only [readsUnwritten, plenTooLong]
    rw [show samplePlen (setOp o (loadSeqIn q s)) = samplePlen (setOp o s) from rfl]
    simp [loadSeqIn]⟩

/-- A command line carried out. -/
theorem commandLine_idle {c : Byte} {via : Via} {p : List Byte} {s : State} (hb : s.busy = false)
    (hp : p.length ≤ 511) :
    commandLine c via p s =
      .next (match via with
        | .send => sendOp (setOp 4#3 (loadCommand c p s))
        | .xfer => xferOp (setOp 6#3 (loadCommand c p s))) := by
  cases via <;> simp [commandLine, hb, show ¬511 < p.length by omega]

/-- What a command line can do. -/
theorem commandLine_next {c : Byte} {via : Via} {p : List Byte} {s t : State} (h : commandLine c via p s = .next t) :
    s.busy = false ∧ p.length ≤ 511 ∧
      ((via = .send ∧ t = sendOp (setOp 4#3 (loadCommand c p s))) ∨
        (via = .xfer ∧ t = xferOp (setOp 6#3 (loadCommand c p s)))) := by
  unfold commandLine at h
  split at h
  · cases h
  · next hb =>
    split at h
    · cases h
    · next hp =>
      refine ⟨by simpa using hb, by omega, ?_⟩
      cases via <;> cases h
      · exact .inl ⟨rfl, rfl⟩
      · exact .inr ⟨rfl, rfl⟩

/-- What a host write of an operand can do: it changes `OPR` alone. -/
theorem writeOperand_next {w : OperandWrite} {s t : State} (h : writeOperand w s = .next t) :
    ∃ o, t = setOpr o s := by
  unfold writeOperand at h
  split at h
  · cases h; exact ⟨_, rfl⟩
  · cases h; exact ⟨_, rfl⟩
  · cases h; exact ⟨_, rfl⟩
  · split at h
    · cases h; exact ⟨_, rfl⟩
    · cases h

end Sys2Proof.Machine
end

