-- ==== Sys2Proof/Laws/Stream.lean ====
section
/-! SUPPORT. The laws of the receive stream: what one item read, one read of several bytes and one `decode` can do. -/

namespace Sys2Proof.Machine

@[simp] theorem RxStream.item_byte (p d : Nat) (b : Byte) (rest : List RxItem) :
    RxStream.item ⟨p, .byte b :: rest, d⟩ = (.byte b, ⟨p + 1, rest, d⟩) := rfl

@[simp] theorem RxStream.item_streamEnd (p d : Nat) (rest : List RxItem) :
    RxStream.item ⟨p, .streamEnd :: rest, d⟩ = (.streamEnd, ⟨p + 1, rest, d⟩) := rfl

@[simp] theorem RxStream.item_never (p d : Nat) (rest : List RxItem) :
    RxStream.item ⟨p, .never :: rest, d⟩ = (.never, ⟨p, .never :: rest, d⟩) := rfl

/-- What one item read can do to the stream (R42): an item taken moves `RX_POS` by one; `Never` stays. -/
theorem RxStream.item_cases {r r' : RxStream} {it : RxItem} (h : r.item = (it, r')) :
    (it ≠ .never ∧ r'.pos = r.pos + 1) ∨ (it = .never ∧ r'.pos = r.pos ∧ nextIsNever r' = true) := by
  unfold RxStream.item at h
  split at h <;> cases h <;> simp [nextIsNever]

/-- Once the next item is known to be `Never`, reading it changes nothing. -/
theorem RxStream.item_of_nextIsNever {r : RxStream} (h : nextIsNever r = true) : r.item = (.never, r) := by
  obtain ⟨p, ahead, d⟩ := r
  cases ahead with
  | nil => simp [nextIsNever] at h
  | cons it rest =>
    simp only [nextIsNever, List.head?_cons, beq_iff_eq, Option.some.injEq] at h
    subst h; rfl

/-- What one read of `n` bytes can do (R43). -/
theorem RxStream.read_cases (n : Nat) {r r' : RxStream} {bs : List Byte} {e : ReadEnd}
    (h : RxStream.read n r = (bs, e, r')) :
    (e = .full ∧ bs.length = n ∧ r'.pos = r.pos + n) ∨
      (e = .ended ∧ bs.length < n ∧ r'.pos = r.pos + bs.length + 1) ∨
      (e = .hangs ∧ bs.length < n ∧ r'.pos = r.pos + bs.length ∧ nextIsNever r' = true) := by
  induction n generalizing r bs with
  | zero =>
    simp only [RxStream.read, Prod.mk.injEq] at h
    obtain ⟨rfl, rfl, rfl⟩ := h
    simp
  | succ n ih =>
    rw [RxStream.read] at h
    rcases hi : r.item with ⟨it, r1⟩
    have hc := RxStream.item_cases hi
    rw [hi] at h
    cases it with
    | byte b =>
      rcases hr : RxStream.read n r1 with ⟨bs1, e1, r2⟩
      simp only [hr, Prod.mk.injEq] at h
      obtain ⟨rfl, rfl, rfl⟩ := h
      simp only [ne_eq, reduceCtorEq, not_false_eq_true, true_and, false_and, or_false] at hc
      rcases ih hr with ⟨h1, h2, h3⟩ | ⟨h1, h2, h3⟩ | ⟨h1, h2, h3, h4⟩
      · left; simp only [List.length_cons]; exact ⟨h1, by omega, by omega⟩
      · right; left; simp only [List.length_cons]; exact ⟨h1, by omega, by omega⟩
      · right; right; simp only [List.length_cons]; exact ⟨h1, by omega, by omega, h4⟩
    | streamEnd =>
      simp only [Prod.mk.injEq] at h
      obtain ⟨rfl, rfl, rfl⟩ := h
      simp only [ne_eq, reduceCtorEq, not_false_eq_true, true_and, false_and, or_false] at hc
      right; left; simp [hc]
    | never =>
      simp only [Prod.mk.injEq] at h
      obtain ⟨rfl, rfl, rfl⟩ := h
      simp only [ne_eq, not_true_eq_false, true_and, false_and, false_or] at hc
      right; right; simp [hc]

/-- A read of bytes that are all there obtains them. -/
theorem RxStream.read_bytes (bs : List Byte) (p d : Nat) (rest : List RxItem) :
    RxStream.read bs.length ⟨p, bs.map RxItem.byte ++ rest, d⟩ = (bs, .full, ⟨p + bs.length, rest, d⟩) := by
  induction bs generalizing p with
  | nil => rfl
  | cons b bs ih =>
    simp only [List.length_cons, List.map_cons, List.cons_append, RxStream.read, RxStream.item_byte, ih,
      Prod.mk.injEq, true_and, RxStream.mk.injEq, and_true]
    omega

/-- A read that meets `End` too early obtains the bytes before it (R43). -/
theorem RxStream.read_short (bs : List Byte) (n p d : Nat) (rest : List RxItem) (h : bs.length < n) :
    RxStream.read n ⟨p, bs.map RxItem.byte ++ .streamEnd :: rest, d⟩ =
      (bs, .ended, ⟨p + bs.length + 1, rest, d⟩) := by
  induction bs generalizing p n with
  | nil =>
    cases n with
    | zero => simp at h
    | succ n => simp [RxStream.read]
  | cons b bs ih =>
    cases n with
    | zero => simp at h
    | succ n =>
      simp only [List.length_cons, Nat.add_lt_add_iff_right] at h
      simp only [List.map_cons, List.cons_append, RxStream.read, RxStream.item_byte, ih _ _ h, List.length_cons,
        Prod.mk.injEq, true_and, RxStream.mk.injEq, and_true]
      omega

/-- What one `decode` can do (R100 to R103). -/
theorem RxStream.decode_cases {r r' : RxStream} {o : DecodeResult} (h : r.decode = (o, r')) :
    (∃ f, o = .frame f ∧ f.trail.length = f.len.toNat + 3 ∧ r'.pos = r.pos + f.len.toNat + 6) ∨
      (o = .error .badHeader ∧ r'.pos = r.pos + 2) ∨
      (o = .error .truncated ∧ r.pos < r'.pos ∧ r'.pos ≤ r.pos + 261) ∨
      (∃ d, o = .hangs d ∧ d ≠ .idle ∧ nextIsNever r' = true) := by
  unfold RxStream.decode at h
  rcases h2 : RxStream.read 2 r with ⟨hd, e, r1⟩
  rw [h2] at h
  have c2 := RxStream.read_cases 2 h2
  cases e with
  | ended =>
    simp only [Prod.mk.injEq] at h; obtain ⟨rfl, rfl⟩ := h
    simp only [reduceCtorEq, false_and, false_or, or_false, true_and] at c2
    right; right; left; exact ⟨rfl, by omega, by omega⟩
  | hangs =>
    simp only [Prod.mk.injEq] at h; obtain ⟨rfl, rfl⟩ := h
    simp only [reduceCtorEq, false_and, false_or, true_and] at c2
    right; right; right
    refine ⟨_, rfl, ?_, c2.2.2⟩
    split <;> simp
  | full =>
    simp only [reduceCtorEq, false_and, or_false, true_and] at c2
    simp only at h
    split at h
    · simp only [Prod.mk.injEq] at h; obtain ⟨rfl, rfl⟩ := h
      right; left; exact ⟨rfl, c2.2⟩
    · rcases h1 : RxStream.read 1 r1 with ⟨l, e, r2⟩
      rw [h1] at h
      have c1 := RxStream.read_cases 1 h1
      cases e with
      | ended =>
        simp only [Prod.mk.injEq] at h; obtain ⟨rfl, rfl⟩ := h
        simp only [reduceCtorEq, false_and, false_or, or_false, true_and] at c1
        right; right; left; exact ⟨rfl, by omega, by omega⟩
      | hangs =>
        simp only [Prod.mk.injEq] at h; obtain ⟨rfl, rfl⟩ := h
        simp only [reduceCtorEq, false_and, false_or, true_and] at c1
        right; right; right; exact ⟨_, rfl, by simp, c1.2.2⟩
      | full =>
        simp only [reduceCtorEq, false_and, or_false, true_and] at c1
        simp only at h
        rcases h3 : RxStream.read ((l.headD 0#8).toNat + Config.trailerAfterLen) r2 with ⟨t, e, r3⟩
        rw [h3] at h
        have c3 := RxStream.read_cases _ h3
        have hl := (l.headD 0#8).isLt
        simp only [Config.trailerAfterLen] at c3
        cases e with
        | ended =>
          simp only [Prod.mk.injEq] at h; obtain ⟨rfl, rfl⟩ := h
          simp only [reduceCtorEq, false_and, false_or, or_false, true_and] at c3
          right; right; left; exact ⟨rfl, by omega, by omega⟩
        | hangs =>
          simp only [Prod.mk.injEq] at h; obtain ⟨rfl, rfl⟩ := h
          simp only [reduceCtorEq, false_and, false_or, true_and] at c3
          right; right; right; exact ⟨_, rfl, by simp, c3.2.2⟩
        | full =>
          simp only [Prod.mk.injEq] at h; obtain ⟨rfl, rfl⟩ := h
          simp only [reduceCtorEq, false_and, or_false, true_and] at c3
          left; exact ⟨_, rfl, c3.1, by simp only; omega⟩

end Sys2Proof.Machine
end

