-- ==== Sys2Proof/Laws/Session.lean ====
section
/-! SUPPORT. One lemma for each operation that says everything it can do. -/

namespace Sys2Proof.Machine

theorem whenIdle_idle {op : State → State} {s : State} (h : s.busy = false) : whenIdle op s = .next (op s) := by
  simp [whenIdle, h]

theorem whenIdle_busy {op : State → State} {s : State} (h : s.busy = true) : whenIdle op s = .next s := by
  simp [whenIdle, h]

/-- An operation carried out whole goes on: it runs, or, while `BUSY = 1`, is ignored. -/
theorem whenIdle_next {op : State → State} {s t : State} (h : whenIdle op s = .next t) :
    (s.busy = false ∧ t = op s) ∨ (s.busy = true ∧ t = s) := by
  unfold whenIdle at h
  split at h
  · next hb => cases h; exact .inr ⟨hb, rfl⟩
  · next hb => cases h; exact .inl ⟨by simpa using hb, rfl⟩

/-- What `StoreFrame` leaves, in terms of reads (R124). -/
theorem holdsFrame_ofBytes {f : List Byte} (h : f.length < 512) :
    holdsFrame f { fbuf := Memory.ofBytes 0 f, flen := BitVec.ofNat 9 f.length } := by
  refine ⟨?_, fun a => by simp⟩
  simp only [BitVec.toNat_ofNat]; omega

theorem holdsNothing_empty : holdsNothing { fbuf := [], flen := 0#9 } := ⟨rfl, fun _ => rfl⟩

/-- What `StoreDecode` leaves of a frame, in terms of reads (R125). -/
theorem holdsReceived_ofBytes {f : Frame} (h : f.trail.length = f.len.toNat + 3) :
    holdsReceived f ⟨f.len, Memory.ofBytes 0 f.trail, BitVec.ofNat 9 f.trail.length, validate f⟩ := by
  have := f.len.isLt
  refine ⟨rfl, ?_, fun a => by simp, rfl⟩
  simp only [BitVec.toNat_ofNat]; omega

theorem holdsNoFrame_empty : holdsNoFrame (noFrame []) := ⟨rfl, rfl, fun _ => rfl, rfl⟩

/-- ENC (R118), by cases on `PLEN`. -/
theorem encOp_eq (s : State) :
    encOp s =
      if (samplePlen s).toNat ≤ 253 then
        setStatus 0#3 (storeFrame (.ok (frameBytes (sampleCmdId s) (sampleSeqIn s) (samplePayload s)))
          (chargeHost true s))
      else setStatus 4#3 (storeFrame (.error .invalidArgument) (chargeHost true s)) := by
  unfold encOp
  rw [encodeOperands_eq]
  by_cases h : (samplePlen s).toNat ≤ 253 <;> simp [h, statusOk, ErrorKind.code]

/-- SEND up to `STATUS` (R119), by cases on `PLEN` and the link. -/
theorem sendHalf_eq (s : State) :
    sendHalf s =
      if (samplePlen s).toNat ≤ 253 then
        if s.linkOpen then
          (none, bumpSeq (txWrite (frameBytes (sampleCmdId s) s.seq (samplePayload s))
            (storeFrame (.ok (frameBytes (sampleCmdId s) s.seq (samplePayload s))) (chargeHost false s))))
        else
          (some .transportNotOpen,
            storeFrame (.ok (frameBytes (sampleCmdId s) s.seq (samplePayload s))) (chargeHost false s))
      else (some .invalidArgument, storeFrame (.error .invalidArgument) (chargeHost false s)) := by
  unfold sendHalf
  rw [encodeOperands_eq]
  by_cases h : (samplePlen s).toNat ≤ 253 <;> simp [h]

/-- The frame a SEND or XFER builds in `s`. -/
abbrev sendFrame (s : State) : List Byte := frameBytes (sampleCmdId s) s.seq (samplePayload s)

/-- The state a sent command leaves before any response is read (R119). -/
abbrev afterSend (s : State) : State :=
  bumpSeq (txWrite (sendFrame s) (storeFrame (.ok (sendFrame s)) (chargeHost false s)))

theorem sendHalf_tooLong {s : State} (h : 253 < (samplePlen s).toNat) :
    sendHalf s = (some .invalidArgument, storeFrame (.error .invalidArgument) (chargeHost false s)) := by
  rw [sendHalf_eq, if_neg (by omega)]

theorem sendHalf_closed {s : State} (h : (samplePlen s).toNat ≤ 253) (hl : s.linkOpen = false) :
    sendHalf s = (some .transportNotOpen, storeFrame (.ok (sendFrame s)) (chargeHost false s)) := by
  rw [sendHalf_eq, if_pos h, if_neg (by simp [hl])]

theorem sendHalf_sent {s : State} (h : (samplePlen s).toNat ≤ 253) (hl : s.linkOpen = true) :
    sendHalf s = (none, afterSend s) := by
  rw [sendHalf_eq, if_pos h, if_pos hl]

theorem sendOp_tooLong {s : State} (h : 253 < (samplePlen s).toNat) :
    sendOp s = setStatus 4#3 (storeFrame (.error .invalidArgument) (chargeHost false s)) := by
  simp only [sendOp, sendHalf_tooLong h]; rfl

theorem sendOp_closed {s : State} (h : (samplePlen s).toNat ≤ 253) (hl : s.linkOpen = false) :
    sendOp s = setStatus 1#3 (storeFrame (.ok (sendFrame s)) (chargeHost false s)) := by
  simp only [sendOp, sendHalf_closed h hl]; rfl

theorem sendOp_sent {s : State} (h : (samplePlen s).toNat ≤ 253) (hl : s.linkOpen = true) :
    sendOp s = setStatus 0#3 (afterSend s) := by
  simp only [sendOp, sendHalf_sent h hl]; rfl

/-- XFER fails as SEND fails (R121). -/
theorem xferOp_failed {s : State} (h : 253 < (samplePlen s).toNat ∨ s.linkOpen = false) : xferOp s = sendOp s := by
  by_cases hp : (samplePlen s).toNat ≤ 253
  · have hl : s.linkOpen = false := h.resolve_left (by omega)
    simp only [xferOp, sendOp, sendHalf_closed hp hl]; rfl
  · simp only [xferOp, sendOp, sendHalf_tooLong (show 253 < (samplePlen s).toNat by omega)]; rfl

/-- XFER sends and then receives (R121). -/
theorem xferOp_sent {s : State} (h : (samplePlen s).toNat ≤ 253) (hl : s.linkOpen = true) :
    xferOp s = recvOp (afterSend s) := by
  simp only [xferOp, sendHalf_sent h hl]

/-- RECV with the link open does what R120 says. -/
theorem recvOp_receives {s : State} (h : s.linkOpen = true) : receives s (recvOp s) := by
  unfold receives recvOp
  rw [if_pos h]
  rcases hd : s.rx.decode with ⟨o, r⟩
  have hc := RxStream.decode_cases hd
  rcases hc with ⟨f, rfl, hl, -⟩ | ⟨rfl, -⟩ | ⟨rfl, -⟩ | ⟨d, rfl, hne, -⟩
  · exact ⟨holdsReceived_ofBytes hl, rfl⟩
  · exact ⟨holdsNoFrame_empty, rfl⟩
  · exact ⟨holdsNoFrame_empty, rfl⟩
  · exact ⟨hne, rfl⟩

/-- RECV with the link closed (R120). -/
theorem recvOp_closed {s : State} (h : s.linkOpen = false) :
    recvOp s = setStatus 1#3 (setDec (noFrame []) s) := by
  unfold recvOp; simp [h, ErrorKind.code]

end Sys2Proof.Machine
end

