-- ==== Sys2Proof/Laws/Dispatch.lean ====
section
/-! SUPPORT. What exec can do, said once over all instructions. -/

namespace Sys2Proof.Machine

/-- The body of each host operation, and of each line, that exec can run. Only CONNECT and DISCONNECT run the bodies
that set and clear the link. -/
inductive Runs : Instr → State → State → Prop where
  | ignored (i : Instr) (s : State) : Runs i s s
  | waits (i : Instr) (l : List RxItem) (s : State) : Runs i s (deliver l s)
  | reserved (i : Instr) (s : State) : s.busy = false → Runs i s (reservedOp s)
  | connect (s : State) : s.busy = false → Runs .connect s (connectOp s)
  | disconnect (s : State) : s.busy = false → Runs .disconnect s (disconnectOp s)
  | enc (i : Instr) (o : OperandRegs) (s : State) : s.busy = false → Runs i s (encOp (setOpr o s))
  | send (i : Instr) (o : OperandRegs) (s : State) : s.busy = false → Runs i s (sendOp (setOpr o s))
  | xfer (i : Instr) (o : OperandRegs) (s : State) : s.busy = false → Runs i s (xferOp (setOpr o s))
  | recv (i : Instr) (o : OperandRegs) (l : List RxItem) (s : State) :
    s.busy = false → Runs i s (recvOp (setOpr o (deliver l s)))

theorem runs_commandLine {i : Instr} {c : Byte} {via : Via} {p : List Byte} {s t : State}
    (h : commandLine c via p s = .next t) : Runs i s t := by
  obtain ⟨hb, -, ⟨-, rfl⟩ | ⟨-, rfl⟩⟩ := commandLine_next h
  · exact .send i _ s hb
  · exact .xfer i _ s hb

theorem runs_whenIdle {i : Instr} {op : State → State} {s t : State} (h : whenIdle op s = .next t)
    (hr : s.busy = false → Runs i s (op s)) : Runs i s t := by
  rcases whenIdle_next h with ⟨hb, rfl⟩ | ⟨-, rfl⟩
  · exact hr hb
  · exact .ignored i _

/-- What a delivery and the RECV after it can do: it always goes on. -/
theorem receiveItems_eq (items : List RxItem) (s : State) :
    receiveItems items s =
      .next (if s.busy then deliver items s else recvOp (setOp 5#3 (deliver items s))) := by
  unfold receiveItems
  split <;> rfl

/-- The items of received bytes are the bytes, with `End` behind them or not. -/
theorem wireItems_cases (bs : List Byte) :
    wireItems bs = bs.map RxItem.byte ∨ wireItems bs = bs.map RxItem.byte ++ [.streamEnd] := by
  unfold wireItems
  split
  · exact .inr rfl
  · exact .inl rfl

theorem runs_receiveItems {i : Instr} {items : List RxItem} {s t : State} (h : receiveItems items s = .next t) :
    Runs i s t := by
  rw [receiveItems_eq] at h
  cases hb : s.busy with
  | true => simp only [hb, if_true] at h; cases h; exact .waits i items s
  | false => simp only [hb] at h; cases h; exact .recv i _ items s hb

/-- Whatever its row, a command is its line. -/
theorem exec_isCommand {i : Instr} {c : Byte} {via : Via} {p : List Byte} (h : isCommand i c via p) (s : State) :
    exec i s = commandLine c via p s := by
  rcases h with rfl | ⟨rfl, rfl⟩ | ⟨rfl, rfl⟩ | ⟨rfl, rfl⟩ <;> rfl

/-- What a line leaves of the operand registers, in terms of reads. -/
theorem holdsLine_load (o : BitVec 3) (c : Byte) (p : List Byte) (s : State) :
    holdsLine o c p s.opr (setOp o (loadCommand c p s)).opr := by
  refine ⟨rfl, fun a => ?_⟩
  by_cases hp : p.length ≤ 253
  · simp only [setOp, setOpr, read_loadCommand s hp, hp, and_true]
  · simp [loadCommand, hp]

theorem sendFrame_load {p : List Byte} (o : BitVec 3) (c : Byte) (s : State) (h : p.length ≤ 253) :
    sendFrame (setOp o (loadCommand c p s)) = frameBytes c s.seq p := by
  unfold sendFrame; rw [sampleCmdId_load, samplePayload_load _ _ _ h]; rfl

/-- What a sent command line leaves before any response is read. -/
theorem afterSend_load {p : List Byte} (o : BitVec 3) (c : Byte) (s : State) (h : p.length ≤ 253) :
    afterSend (setOp o (loadCommand c p s)) =
      { sentState (frameBytes c s.seq p) s with opr := (setOp o (loadCommand c p s)).opr } := by
  unfold afterSend; rw [chargeHost_load o c s (by omega), sendFrame_load _ _ _ h]; rfl

/-- Everything a completed exec can have done. -/
theorem exec_cases {i : Instr} {s t : State} (h : exec i s = .next t) : Runs i s t := by
  cases i with
  | reserved0 => exact runs_whenIdle h (.reserved _ s)
  | connect => exact runs_whenIdle h (.connect s)
  | disconnect => exact runs_whenIdle h (.disconnect s)
  | enc => exact runs_whenIdle h (.enc _ s.opr s)
  | send => exact runs_whenIdle h (.send _ s.opr s)
  | recv => exact runs_whenIdle h fun hb => by simpa [setOpr, deliver] using Runs.recv .recv s.opr [] s hb
  | xfer => exact runs_whenIdle h (.xfer _ s.opr s)
  | reserved7 => exact runs_whenIdle h (.reserved _ s)
  | frame dir c q p =>
    cases dir with
    | built =>
      simp only [exec, execFrame, encLine] at h
      split at h
      · cases h
      · next hb =>
        split at h
        · cases h
        · cases h; exact .enc _ _ s (by simpa using hb)
    | received =>
      simp only [exec, execFrame, receiveFrame] at h
      split at h
      · cases h
      · exact runs_receiveItems h
  | cmdQueryAlarm via p => exact runs_commandLine h
  | cmdClearAlarms via p => exact runs_commandLine h
  | cmdReboot via p => exact runs_commandLine h
  | cmdOther c via p => exact runs_commandLine h

end Sys2Proof.Machine
end

