-- ==== Sys2Proof/Laws/PerInstr.lean ====
section
/-! SUPPORT. Statements per instruction. -/

namespace Sys2Proof.Laws

/-- The row of spec/opcode_table.json that a word falls under: its bits under the mask are the match bits (R60, R70,
R171 to R174). -/
def matchesRow (pattern mask w : Nat) : Bool := w &&& mask == pattern

/-- The first byte of an instruction's word. -/
def firstByte (i : Instr) : Nat := ((encode i).bytes.headD 0#8).toNat

/-- A command's row: the first byte is its `CMD` byte. -/
def isCmdRow (cmd : Nat) (i : Instr) : Bool := (encode i).port == .cmd && matchesRow cmd 0xFF (firstByte i)

namespace TableRow

/-- A well-formed instruction's word has the match bits of its row in spec/opcode_table.json, at the port of its
row's format. -/
def Statement : Instr → Prop
  | .reserved0 => (encode .reserved0).port = .op ∧ matchesRow 0 7 (firstByte .reserved0) = true
  | .connect => (encode .connect).port = .op ∧ matchesRow 1 7 (firstByte .connect) = true
  | .disconnect => (encode .disconnect).port = .op ∧ matchesRow 2 7 (firstByte .disconnect) = true
  | .enc => (encode .enc).port = .op ∧ matchesRow 3 7 (firstByte .enc) = true
  | .send => (encode .send).port = .op ∧ matchesRow 4 7 (firstByte .send) = true
  | .recv => (encode .recv).port = .op ∧ matchesRow 5 7 (firstByte .recv) = true
  | .xfer => (encode .xfer).port = .op ∧ matchesRow 6 7 (firstByte .xfer) = true
  | .reserved7 => (encode .reserved7).port = .op ∧ matchesRow 7 7 (firstByte .reserved7) = true
  | .frame dir cmd seq payload =>
    (encode (.frame dir cmd seq payload)).port = framePort dir ∧
      (encode (.frame dir cmd seq payload)).bytes.take 2 = [0xAA#8, 0xAA#8] ∧
      (encode (.frame dir cmd seq payload)).bytes.drop (payload.length + 6) = [0x0D#8, 0x0A#8]
  | .cmdQueryAlarm via payload => isCmdRow 0x81 (.cmdQueryAlarm via payload) = true
  | .cmdClearAlarms via payload => isCmdRow 0x8A (.cmdClearAlarms via payload) = true
  | .cmdReboot via payload => isCmdRow 0xCF (.cmdReboot via payload) = true
  | .cmdOther cmd via payload =>
    (Instr.cmdOther cmd via payload).wf = true →
      (encode (.cmdOther cmd via payload)).port = .cmd ∧ firstByte (.cmdOther cmd via payload) = cmd.toNat ∧
        cmd.toNat ∉ [0x81, 0x8A, 0xCF]

theorem reserved0 : Statement .reserved0 := by unfold Statement; decide
theorem connect : Statement .connect := by unfold Statement; decide
theorem disconnect : Statement .disconnect := by unfold Statement; decide
theorem enc : Statement .enc := by unfold Statement; decide
theorem send : Statement .send := by unfold Statement; decide
theorem recv : Statement .recv := by unfold Statement; decide
theorem xfer : Statement .xfer := by unfold Statement; decide
theorem reserved7 : Statement .reserved7 := by unfold Statement; decide

theorem frame (dir : FrameDir) (cmd seq : Byte) (payload : List Byte) : Statement (.frame dir cmd seq payload) := by
  refine ⟨rfl, rfl, ?_⟩
  simp [encode, frameBytes, frameBody]

theorem cmdQueryAlarm (via : Via) (payload : List Byte) : Statement (.cmdQueryAlarm via payload) := by
  simp [Statement, isCmdRow, matchesRow, firstByte, encode, encodeCmdLine]

theorem cmdClearAlarms (via : Via) (payload : List Byte) : Statement (.cmdClearAlarms via payload) := by
  simp [Statement, isCmdRow, matchesRow, firstByte, encode, encodeCmdLine]

theorem cmdReboot (via : Via) (payload : List Byte) : Statement (.cmdReboot via payload) := by
  simp [Statement, isCmdRow, matchesRow, firstByte, encode, encodeCmdLine]

theorem cmdOther (cmd : Byte) (via : Via) (payload : List Byte) : Statement (.cmdOther cmd via payload) := by
  intro h
  refine ⟨rfl, rfl, ?_⟩
  simp only [Instr.wf, namedCmds, Bool.and_eq_true, Bool.not_eq_true', List.contains_cons, List.contains_nil,
    Bool.or_false, Bool.or_eq_false_iff, beq_eq_false_iff_ne, ne_eq] at h
  obtain ⟨-, h1, h2, h3⟩ := h
  simp only [List.mem_cons, List.not_mem_nil, or_false, not_or]
  refine ⟨fun h => h1 ?_, fun h => h2 ?_, fun h => h3 ?_⟩ <;> exact BitVec.eq_of_toNat_eq h

end TableRow
end Sys2Proof.Laws
end

