-- ==== Sys2Proof/Laws/Serial.lean ====
section
/-! SUPPORT. What one step of the byte-serial machines can do, and when a step is one of theirs. -/

namespace Sys2Proof.Machine

/-- With no input and an operation in progress, the step is the machine's. -/
theorem step_of_no_input {s : State} (h : s.inputs = []) (hb : s.busy = true) : step s = machineStep s := by
  unfold step; rw [h]; simp [idleStep, hb]

/-- The step of an active encoder. -/
theorem machineStep_enc {s : State} (h : s.em.state ≠ .idle) : machineStep s = encStep s := by
  unfold machineStep; rw [if_neg h]

/-- The step of an active decoder. -/
theorem machineStep_dec {s : State} (he : s.em.state = .idle) (hd : s.dm.state ≠ .idle) :
    machineStep s = decStep s := by
  unfold machineStep; rw [if_pos he, if_neg hd]

/-- A step of the machines never returns just where the decoder's next item is `Never`. -/
theorem machineStep_never {s : State} (h : machineStep s = .fault .readNeverReturns) :
    s.em.state = .idle ∧ s.dm.state ≠ .idle ∧ s.rx.item.1 = .never := by
  unfold machineStep at h
  split at h
  · next he =>
    split at h
    · cases h
    · next hd =>
      refine ⟨he, hd, ?_⟩
      unfold decStep at h
      split at h
      · next b r hi =>
        unfold decByte at h
        split at h
        · cases h
        · cases h
        · cases h
        · cases h
        · simp only [decBody] at h
          split at h <;> cases h
      · cases h
      · next hi => rw [hi]
  · unfold encStep at h
    split at h
    · cases h
    all_goals (unfold emit at h; split at h <;> cases h)

/-- What the passing of time can do: a machine's step, or, where none is enabled, the item that does not return comes to
be known. -/
theorem elapseStep_next {s t : State} (h : elapseStep s = .next t) :
    (s.busy = true ∧ machineStep s = .next t) ∨
      (s.busy = true ∧ machineStep s = .fault .readNeverReturns ∧ t = setRx s.rx.item.2 s) ∨
      (s.busy = false ∧ t = s) := by
  unfold elapseStep at h
  split at h
  · next hb =>
    split at h
    · next u hm => cases h; exact .inl ⟨hb, hm⟩
    · next hm => cases h; exact .inr (.inl ⟨hb, hm, rfl⟩)
    · cases h
    · cases h
  · next hb => cases h; exact .inr (.inr ⟨by simpa using hb, rfl⟩)

theorem encDone_inputs (s : State) (l : List Input) : encDone (dropInput l s) = dropInput l (encDone s) := by
  cases h1 : s.em.nolink <;> cases h2 : s.em.send <;> cases h3 : s.em.xRecv <;>
    simp only [encDone, dropInput_em, h1, h2, h3] <;> rfl

theorem emit_inputs (b : Byte) {further : State → State} (s : State) (l : List Input)
    (h : ∀ t, further (dropInput l t) = dropInput l (further t)) :
    emit b further (dropInput l s) =
      match emit b further s with
      | .next t => .next (dropInput l t)
      | .fault f => .fault f
      | .refused r => .refused r := by
  unfold emit
  by_cases hf : s.enc.flen.toNat < Config.fbufSize
  · simp only [dropInput_enc, hf, if_true]
    exact congrArg Host.Outcome.next (h
      { s with
        enc := { fbuf := Memory.write s.enc.fbuf s.enc.flen.toNat b, flen := s.enc.flen + 1#9 }
        tx := if s.em.send then s.tx ++ [b] else s.tx })
  · simp only [dropInput_enc, hf, if_false]

/-- The machines neither read nor change the list of inputs. -/
theorem machineStep_inputs (s : State) (l : List Input) :
    machineStep (dropInput l s) =
      match machineStep s with
      | .next t => .next (dropInput l t)
      | .fault f => .fault f
      | .refused r => .refused r := by
  unfold machineStep
  by_cases h : s.em.state = .idle
  · by_cases h' : s.dm.state = .idle
    · simp [h, h']
    · simp only [dropInput_em, dropInput_dm, h, h', if_true, if_false]
      unfold decStep
      simp only [dropInput_rx]
      rcases s.rx.item with ⟨it, r⟩
      cases it with
      | never => rfl
      | streamEnd => rfl
      | byte b =>
        simp only [decByte, setRx, dropInput]
        cases hd : s.dm.state with
        | idle => rfl
        | hdr0 => rfl
        | hdr1 => by_cases hh : s.dm.h0 = Config.startByte ∧ b = Config.startByte <;> simp only [hh] <;> rfl
        | len => rfl
        | body =>
          simp only [decBody]
          split
          · simp only; split <;> rfl
          · rfl
  · simp only [dropInput_em, h, if_false]
    unfold encStep
    simp only [dropInput_em]
    cases hd : s.em.state
    case idle => exact absurd hd h
    case fin1 => exact emit_inputs _ s l fun t => encDone_inputs t l
    all_goals exact emit_inputs _ s l fun t => rfl

/-- What `emit` can do. -/
theorem emit_next {b : Byte} {further : State → State} {s t : State} (h : emit b further s = .next t) :
    s.enc.flen.toNat < 261 ∧
      t = further
        { s with
          enc := { fbuf := Memory.write s.enc.fbuf s.enc.flen.toNat b, flen := s.enc.flen + 1#9 }
          tx := if s.em.send then s.tx ++ [b] else s.tx } := by
  unfold emit at h
  split at h
  · next hf => cases h; exact ⟨hf, rfl⟩
  · cases h

/-- The item a decoder step takes, where it is fixed. -/
theorem item_of_ahead {r : RxStream} {it : RxItem} {rest : List RxItem} (h : r.ahead = it :: rest)
    (hn : it ≠ .never) : r.item = (it, { r with pos := r.pos + 1, ahead := rest }) := by
  obtain ⟨p, a, d⟩ := r
  subst h
  cases it with
  | never => exact absurd rfl hn
  | _ => rfl

/-- The item a decoder step takes, fixed or free. -/
theorem item_of_takesItem {r r' : RxStream} {it : RxItem} (h : takesItem r it r') :
    r.item.1 = it ∧ (it ≠ .never → r.item.2 = r') := by
  obtain ⟨p, a, d⟩ := r
  rcases h with ⟨rest, rfl, rfl⟩ | ⟨rfl, hf, rfl⟩
  · cases it <;> simp
  · simp only at hf
    unfold RxStream.item RxStream.peek
    simp only [← hf]
    cases it <;> simp

/-- A decoder step on a fixed byte. -/
theorem decStep_byte {s : State} {b : Byte} {rest : List RxItem} (h : s.rx.ahead = .byte b :: rest) :
    decStep s = decByte b (setRx { s.rx with pos := s.rx.pos + 1, ahead := rest } s) := by
  unfold decStep; rw [item_of_ahead h (by simp)]

/-- A decoder step on a fixed `End`. -/
theorem decStep_end {s : State} {rest : List RxItem} (h : s.rx.ahead = .streamEnd :: rest) :
    decStep s = .next (decError .truncated (setRx { s.rx with pos := s.rx.pos + 1, ahead := rest } s)) := by
  unfold decStep; rw [item_of_ahead h (by simp)]

/-- The completion of a frame keeps what the frame left in `FBUF`, and `TX`. -/
theorem encDone_keeps (s : State) :
    (encDone s).enc = s.enc ∧ (encDone s).tx = s.tx ∧ (encDone s).rx = s.rx ∧ (encDone s).linkOpen = s.linkOpen ∧
      (encDone s).opr = s.opr ∧ (encDone s).em = { s.em with state := .idle } := by
  unfold encDone
  simp only
  split
  · simp
  · split
    · split <;> simp
    · simp

end Sys2Proof.Machine
end

