-- ==== Sys2Proof/Tests/Slice0.lean ====
section
/-! SUPPORT. Tests on fixed values. Expected results come from spec/95_test_vectors.md (S1 and the tables V-ENC, V-DEC,
V-CON, V-SEND, V-XFER, V-RSV, V-CMD, V-STEP, V-RST) and from the encoding tables of spec/30_encoding.md. The witnesses at
the end show states and operands that meet the hypotheses of the statements in Certificates/Slice0/Obligations.lean. -/

namespace Sys2Proof.Tests

open Sys2Proof Sys2Proof.Machine

/-! ## Helpers -/

/-- Whether a step goes on to a state with a property. -/
def goesOn (o : Host.Outcome State Fault Refusal) (p : State → Bool) : Bool :=
  match o with
  | .next t => p t
  | .fault _ => false
  | .refused _ => false

/-- A block between operations, with a link, a value of `SEQ` and items waiting. -/
def block (link : Bool) (seq : Byte) (items : List RxItem) : State :=
  { State.reset with linkOpen := link, seq := seq, rx := { State.reset.rx with ahead := items } }

/-- With `CMD_ID`, `SEQ_IN` and `PLEN` written, and the head of `TXBUF`. -/
def withOperands (cmd seqIn : Byte) (plen : Count) (payload : List Byte) (s : State) : State :=
  { s with opr := { op := 0#3, cmdId := cmd, cmdIdSet := true, seqIn := seqIn, seqInSet := true, plen := plen,
                    plenSet := true, txbuf := Memory.ofBytes 0 payload } }

/-- The frame in `FBUF`. -/
def builtFrame (s : State) : List Byte := bufferBytes s.enc.fbuf s.enc.flen.toNat

/-- The bytes in `RXBUF`. -/
def received (s : State) : List Byte := bufferBytes s.dec.rxbuf s.dec.rxCnt.toNat

/-- The source's example (S1). -/
def s1Frame : List Byte := [0xAA#8, 0xAA#8, 0x02#8, 0x8A#8, 0x00#8, 0x8C#8, 0x0D#8, 0x0A#8]

/-- V-ENC row 5. -/
def row5Frame : List Byte :=
  [0xAA#8, 0xAA#8, 0x05#8, 0x10#8, 0x05#8, 0x01#8, 0x02#8, 0x03#8, 0x20#8, 0x0D#8, 0x0A#8]

/-- A list of zeros, for payloads of a given length. -/
def zeros (n : Nat) : List Byte := List.replicate n 0#8

@[simp] theorem zeros_length (n : Nat) : (zeros n).length = n := List.length_replicate

/-! ## WellFormed -/

theorem test_wf_refuses_long_frame : (Instr.frame .built 0#8 0#8 (zeros 254)).wf = false := by
  simp [Instr.wf]

theorem test_wf_accepts_longest_frame : (Instr.frame .received 0#8 0#8 (zeros 253)).wf = true := by
  simp [Instr.wf]

theorem test_wf_refuses_query_count : (Instr.cmdQueryAlarm .send (zeros 512)).wf = false := by
  simp [Instr.wf, countFitsPlen]

theorem test_wf_refuses_clear_count : (Instr.cmdClearAlarms .xfer (zeros 512)).wf = false := by
  simp [Instr.wf, countFitsPlen]

theorem test_wf_refuses_reboot_count : (Instr.cmdReboot .send (zeros 512)).wf = false := by
  simp [Instr.wf, countFitsPlen]

theorem test_wf_refuses_other_count : (Instr.cmdOther 0x10#8 .send (zeros 512)).wf = false := by
  simp [Instr.wf, countFitsPlen]

theorem test_wf_refuses_other_named : (Instr.cmdOther 0x8A#8 .send []).wf = false := by decide

/-! ## Decode -/

/-- R70: the eight codes. -/
theorem test_decode_op_codes :
    (List.range 8).map (fun k => decodeWord ⟨.op, [BitVec.ofNat 8 k]⟩) =
      [.ok .reserved0, .ok .connect, .ok .disconnect, .ok .enc, .ok .send, .ok .recv, .ok .xfer, .ok .reserved7] := by
  rfl

/-- S1, R60: the frame the source gives. -/
theorem test_decode_frame : decodeWord ⟨.frameOut, s1Frame⟩ = .ok (.frame .built 0x8A#8 0#8 []) := by rfl

/-- V-ENC row 5, received. -/
theorem test_decode_frame_received :
    decodeWord ⟨.frameIn, row5Frame⟩ = .ok (.frame .received 0x10#8 0x05#8 [1#8, 2#8, 3#8]) := by rfl

/-- R62: V-DEC rows 4, 10, 11 and 13 as words: not frames, each with the reason. -/
theorem test_decode_refuses_bad_frames :
    [decodeWord ⟨.frameIn, [0x55#8, 0xAA#8, 0x02#8, 0x8A#8, 0x00#8, 0x8C#8, 0x0D#8, 0x0A#8]⟩,
      decodeWord ⟨.frameIn, [0xAA#8, 0xAA#8, 0x02#8, 0x8A#8, 0x00#8, 0x8D#8, 0x0D#8, 0x0A#8]⟩,
      decodeWord ⟨.frameIn, [0xAA#8, 0xAA#8, 0x02#8, 0x8A#8, 0x00#8, 0x8C#8, 0x0D#8, 0x0D#8]⟩,
      decodeWord ⟨.frameIn, [0xAA#8, 0xAA#8, 0x00#8, 0x00#8, 0x0D#8, 0x0A#8]⟩,
      decodeWord ⟨.frameIn, s1Frame.take 7⟩, decodeWord ⟨.frameIn, s1Frame ++ [0#8]⟩] =
      [.error .badStartMarker, .error .badChecksum, .error .badEndMarker, .error .badLengthByte, .error .shortWord,
        .error .trailingBytes] := by rfl

/-- R67, R171 to R174: the command rows. -/
theorem test_decode_commands :
    [decodeTableWord 8 0x81, decodeTableWord 8 0x8A, decodeTableWord 8 0xCF, decodeTableWord 0 0,
      decodeTableWord 8 0x54] =
      [some (.cmdQueryAlarm .send []), some (.cmdClearAlarms .send []), some (.cmdReboot .send []),
        some (.cmdOther 0#8 .send []), some (.cmdOther 0x54#8 .send [])] := by rfl

/-- A command line with a payload, and the lines that are refused. -/
theorem test_decode_command_lines :
    [decodeWord ⟨.cmd, [0x10#8, 1#8, 2#8, 0#8, 7#8, 8#8]⟩, decodeWord ⟨.cmd, [0x10#8, 2#8, 0#8, 0#8]⟩,
      decodeWord ⟨.cmd, [0x10#8, 0#8, 0#8, 2#8]⟩, decodeWord ⟨.cmd, [0x10#8, 0#8, 1#8, 0#8]⟩] =
      [.ok (.cmdOther 0x10#8 .xfer [7#8, 8#8]), .error .badVia, .error .badCount, .error .shortWord] := by rfl

/-- The `WIRE` row's pattern with S1's fields, in either byte order; with `LEN` and `CHK` left to be computed; and with a
wrong `CHK`, which is no frame. -/
theorem test_decode_wire_row :
    decodeTableWord 64 0xAAAA028A008C0D0A = some (.frame .built 0x8A#8 0#8 []) ∧
      decodeTableWord 64 0x0A0D8C008A02AAAA = some (.frame .built 0x8A#8 0#8 []) ∧
      decodeTableWord 64 0xAAAA008A00000D0A = some (.frame .built 0x8A#8 0#8 []) ∧
      decodeTableWord 64 0xAAAA028A008D0D0A = none := ⟨rfl, rfl, rfl, rfl⟩

/-! ## One step of each instruction -/

/-- V-RSV row 1. -/
theorem test_reserved0 : exec .reserved0 State.reset = .next { State.reset with status := 4#3 } := by rfl

/-- V-RSV row 2. -/
theorem test_reserved7 : exec .reserved7 (block true 5#8 []) = .next { block true 5#8 [] with status := 4#3 } := by rfl

/-- V-CON rows 1 and 2. -/
theorem test_connect :
    goesOn (exec .connect (answerConnect true State.reset)) (fun t => t.linkOpen && t.status == 0#3) = true ∧
      goesOn (exec .connect (answerConnect false State.reset)) (fun t => !t.linkOpen && t.status == 1#3) = true :=
  ⟨rfl, rfl⟩

/-- V-CON row 3: no answer is drawn. -/
theorem test_connect_open :
    exec .connect (answerConnect false (block true 0x2A#8 [])) = .next (answerConnect false (block true 0x2A#8 [])) := by
  rfl

/-- V-CON row 4. -/
theorem test_disconnect :
    goesOn (exec .disconnect (block true 7#8 [])) (fun t => !t.linkOpen && t.seq == 7#8 && t.status == 0#3) = true := by
  rfl

/-- V-ENC row 5: frame byte 4 is `SEQ_IN`, not `SEQ`. -/
theorem test_enc :
    goesOn (exec .enc (withOperands 0x10#8 0x05#8 3#9 [1#8, 2#8, 3#8] (block false 0x33#8 [])))
      (fun t => builtFrame t == row5Frame && t.status == 0#3 && t.seq == 0x33#8 && t.tx == [] && !t.hostFault) =
      true := by rfl

/-- V-ENC row 16. -/
theorem test_enc_too_long :
    goesOn (exec .enc (withOperands 0x20#8 0#8 254#9 [] State.reset)) (fun t => t.enc.flen == 0#9 && t.status == 4#3) =
      true := by rfl

/-- V-SEND row 6. -/
theorem test_send :
    goesOn (exec .send (withOperands 0x10#8 0x99#8 3#9 [1#8, 2#8, 3#8] (block true 5#8 [])))
      (fun t => t.tx == row5Frame && t.seq == 6#8 && builtFrame t == row5Frame && t.status == 0#3) = true := by rfl

/-- V-SEND row 3. -/
theorem test_send_closed :
    goesOn (exec .send (withOperands 0x8A#8 0#8 0#9 [] (block false 0#8 [])))
      (fun t => t.tx == [] && t.seq == 0#8 && builtFrame t == s1Frame && t.status == 1#3) = true := by rfl

/-- V-DEC row 11: a wrong end marker is not an error. -/
theorem test_recv :
    goesOn (exec .recv (block true 0#8
        ([0xAA#8, 0xAA#8, 0x02#8, 0x8A#8, 0x00#8, 0x8C#8, 0x0D#8, 0x0D#8].map RxItem.byte)))
      (fun t => t.status == 0#3 && t.rx.pos == 8 && t.dec.rxLen == 2#8 &&
        received t == [0x8A#8, 0x00#8, 0x8C#8, 0x0D#8, 0x0D#8] && t.dec.flags == ⟨true, true, false, false⟩) =
      true := by rfl

/-- V-DEC row 3: a short header is `Truncated` even when the byte is wrong. -/
theorem test_recv_short :
    goesOn (exec .recv (block true 0#8 [.byte 0x55#8, .streamEnd]))
      (fun t => t.status == 3#3 && t.rx.pos == 2 && t.dec == noFrame []) = true := by rfl

/-- V-XFER row 6: a response with a wrong checksum is delivered. -/
theorem test_xfer :
    goesOn (exec .xfer (withOperands 0x81#8 0#8 0#9 [] (block true 0#8
        ([0xAA#8, 0xAA#8, 0x02#8, 0x8A#8, 0x00#8, 0x8D#8, 0x0D#8, 0x0A#8].map RxItem.byte))))
      (fun t => t.seq == 1#8 && t.status == 0#3 && received t == [0x8A#8, 0x00#8, 0x8D#8, 0x0D#8, 0x0A#8] &&
        t.dec.flags == ⟨true, false, true, false⟩) = true := by rfl

/-- V-XFER row 7: the first read is never answered. -/
theorem test_xfer_never :
    goesOn (exec .xfer (withOperands 0x81#8 0#8 0#9 [] (block true 0#8 [.never])))
      (fun t => t.busy && t.seq == 1#8 && t.tx.length == 8 && t.status == 0#3) = true := by rfl

/-- S1 as the line `ENC 0x8A, 0x00, []`. -/
theorem test_frame_built :
    goesOn (exec (.frame .built 0x8A#8 0#8 []) State.reset) (fun t => builtFrame t == s1Frame && t.status == 0#3) =
      true := by rfl

/-- V-RT2: the frame of V-ENC row 5 received back. -/
theorem test_frame_received :
    goesOn (exec (.frame .received 0x10#8 0x05#8 [1#8, 2#8, 3#8]) (block true 0#8 []))
      (fun t => received t == row5Frame.drop 3 && t.dec.flags == ⟨true, true, true, true⟩ && t.rx.pos == 11) = true := by
  rfl

/-- V-CMD: `0x81` at `SEQ` 01. -/
theorem test_query_alarm :
    goesOn (exec (.cmdQueryAlarm .send []) (block true 1#8 []))
      (fun t => t.tx == [0xAA#8, 0xAA#8, 0x02#8, 0x81#8, 0x01#8, 0x84#8, 0x0D#8, 0x0A#8]) = true := by rfl

/-- V-CMD: `0x8A` at `SEQ` 02. -/
theorem test_clear_alarms :
    goesOn (exec (.cmdClearAlarms .send []) (block true 2#8 []))
      (fun t => t.tx == [0xAA#8, 0xAA#8, 0x02#8, 0x8A#8, 0x02#8, 0x8E#8, 0x0D#8, 0x0A#8]) = true := by rfl

/-- V-CMD: `0xCF` at `SEQ` 01, and no response. -/
theorem test_reboot :
    goesOn (exec (.cmdReboot .xfer []) (block true 1#8 [.streamEnd]))
      (fun t => t.tx == [0xAA#8, 0xAA#8, 0x02#8, 0xCF#8, 0x01#8, 0xD2#8, 0x0D#8, 0x0A#8] && t.status == 3#3) =
      true := by rfl

/-- V-SEND row 6 as a command line. -/
theorem test_other_command :
    goesOn (exec (.cmdOther 0x10#8 .send [1#8, 2#8, 3#8]) (block true 5#8 []))
      (fun t => t.tx == row5Frame && t.seq == 6#8) = true := by rfl

/-- A block to which the transport delivers bytes. -/
def offered (bs : List Byte) : State := { block true 0#8 [] with inputs := [.present ⟨.frameIn, bs⟩] }

/-- V-DEC rows 10, 4 and 3 as bytes that the transport delivers: a wrong checksum is delivered and flagged, a wrong start
is `BadHeader`, too few bytes are `Truncated`. -/
theorem test_bad_frames_are_received :
    goesOn (step (offered [0xAA#8, 0xAA#8, 0x02#8, 0x8A#8, 0x00#8, 0x8D#8, 0x0D#8, 0x0A#8]))
        (fun t => t.status == 0#3 && t.rx.pos == 8 && t.dec.flags == ⟨true, false, true, false⟩) = true ∧
      goesOn (step (offered [0x55#8, 0xAA#8, 0x02#8, 0x8A#8, 0x00#8, 0x8C#8, 0x0D#8, 0x0A#8]))
        (fun t => t.status == 2#3 && t.rx.pos == 2) = true ∧
      goesOn (step (offered [0x55#8])) (fun t => t.status == 3#3 && t.rx.pos == 2) = true := ⟨rfl, rfl, rfl⟩

/-- Every row of the opcode table runs as the first instruction after reset. -/
theorem test_rows_run_from_reset :
    ([0, 1, 2, 3, 4, 5, 6, 7, 0x81, 0x8A, 0xCF].all fun w =>
        match step (State.reset.withFetchWord 8 w), decodeTableWord 8 w with
        | .next _, some _ => true
        | _, _ => false) = true ∧
      goesOn (step (State.reset.withFetchWord 64 0xAAAA028A008C0D0A)) (fun t => builtFrame t == s1Frame) = true ∧
      goesOn (step (State.reset.withFetchWord 0 0)) (fun t => t.status == 1#3) = true := ⟨rfl, rfl, rfl⟩

/-! ## The byte-serial machines (V-STEP) -/

/-- The state after some steps, where every one goes on. -/
def stepsOn : Nat → State → Option State
  | 0, s => some s
  | n + 1, s =>
    match step s with
    | .next t => stepsOn n t
    | .fault _ => none
    | .refused _ => none

/-- V-SEND row 6, before its operation. -/
def at05 : State := withOperands 0x10#8 0x99#8 3#9 [1#8, 2#8, 3#8] (block true 5#8 [])

/-- The start of the trace of V-STEP, issued. -/
def traceStart : State :=
  { withOperands 0x10#8 0#8 3#9 [1#8, 2#8, 3#8] (block true 5#8
      ([0xAA#8, 0xAA#8, 0x02#8, 0x81#8, 0x05#8, 0x88#8, 0x0D#8, 0x0A#8].map RxItem.byte)) with
    inputs := [.presentSerial 6#3] }

/-- V-STEP, the row of step 9. -/
theorem test_trace_step9 :
    ((stepsOn 9 traceStart).map fun t => (t.em.state, t.enc.flen, t.em.sum, t.em.idx, t.seq, t.busy)) =
      some (EState.chk, 8#9, 0x20#8, 3#8, 5#8, true) := by rfl

/-- R210, R226: a reset after three steps of a SEND, with part of the frame sent, leaves nothing of it. -/
theorem test_reset_inside_an_operation :
    let s : State := { at05 with inputs := [.presentSerial 4#3, .elapse, .elapse, .elapse, .reset] }
    ((stepsOn 4 s).map fun t => (t.tx, t.busy)) = some ([0xAA#8, 0xAA#8, 0x05#8], true) ∧
      ((stepsOn 5 s).map fun t => (t.tx, t.busy, t.seq, t.em.state)) = some ([], false, 0#8, EState.idle) :=
  ⟨rfl, rfl⟩

/-- V-STEP, the row of step 18: `CHK_OK` is already 1. -/
theorem test_trace_step18 :
    ((stepsOn 18 traceStart).map fun t => (t.rx.pos, t.dec.rxCnt, t.dm.rem, t.dm.sum, t.dec.flags)) =
      some (6, 3#9, 2#9, 0x88#8, ⟨false, true, false, false⟩) := by rfl

/-! ## Witnesses

Each theorem shows a state and operands that meet the hypotheses of the statement it names, at the boundary values of its
clauses. -/

/-- Operands at the largest payload the encoder accepts. -/
def at253 : State := withOperands 0x20#8 0x7F#8 253#9 [] (block true 0#8 [])

/-- Operands one beyond. -/
def at254 : State := withOperands 0x20#8 0x7F#8 254#9 [] (block true 0#8 [])

/-- The same with the link closed. -/
def closed (s : State) : State := { s with linkOpen := false }

/-- The same with `BUSY = 1`. -/
def busyNow (s : State) : State := { s with busy := true }

theorem witness_ResetInputGivesResetValues :
    ({ at253 with inputs := [.reset, .waitDone] } : State).inputs = .reset :: [.waitDone] := rfl

/-- For ReservedCodesReportInvalidArgument, DisconnectReleasesTransport and every other statement of an operation
whose one hypothesis is `BUSY = 0`. -/
theorem witness_idle : at253.busy = false := rfl

/-- DisconnectReleasesTransport: a list with a CONNECT that fails, all of whose operations complete. -/
theorem witness_DisconnectReleasesTransport :
    let t : State := answerConnect false { at254 with linkOpen := false }
    ((runOps [.enc, .connect] t).map State.linkOpen) = some false ∧ [Instr.enc, .connect][1]? = some .connect ∧
      [Instr.enc, .connect][0]? ≠ some .connect := ⟨rfl, rfl, by decide⟩

theorem witness_ConnectFollowsTransportAnswer :
    at253.busy = false ∧ at253.linkOpen = true ∧ State.reset.linkOpen = false ∧ State.reset.env.connectAhead = [] ∧
      (answerConnect true State.reset).env.connectAhead = true :: [] := ⟨rfl, rfl, rfl, rfl, rfl⟩

/-- EncBuildsFrameInFbuf, SendAppendsFrameAndAdvancesSeq, RecvStoresWhatDecodeGives, XferSendsThenReceives,
TooLongPayloadOnClosedLinkIsInvalidArgument: `PLEN` 253 and 254, the link open and closed. -/
theorem witness_operations :
    at253.busy = false ∧ at253.linkOpen = true ∧ (samplePlen at253).toNat = 253 ∧ at254.busy = false ∧
      (samplePlen at254).toNat = 254 ∧ (closed at253).linkOpen = false ∧ (closed at253).busy = false ∧
      (closed at254).linkOpen = false ∧ (samplePlen (closed at254)).toNat = 254 :=
  ⟨rfl, rfl, rfl, rfl, rfl, rfl, rfl, rfl, rfl⟩

theorem witness_IssueWhileBusyIsIgnored : (busyNow at253).busy = true := rfl

/-- Each of the four error kinds, from an operation that completes. -/
theorem witness_ErrorsChangeOnlyWhatTheyList :
    goesOn (exec .send (withOperands 1#8 0#8 0#9 [] State.reset)) (fun t => t.status == 1#3 && !t.busy) = true ∧
      goesOn (exec .recv (block true 0#8 [.byte 0#8, .byte 0#8])) (fun t => t.status == 2#3 && !t.busy) = true ∧
      goesOn (exec .recv (block true 0#8 [.streamEnd])) (fun t => t.status == 3#3 && !t.busy) = true ∧
      goesOn (exec .xfer at254) (fun t => t.status == 4#3 && !t.busy) = true := ⟨rfl, rfl, rfl, rfl⟩

/-- FrameBuiltStandsInFbuf, FrameReceivedIsReadBack: the longest payload. -/
theorem witness_frame_rows :
    (block true 0#8 []).busy = false ∧ (block true 0#8 []).linkOpen = true ∧ (block true 0#8 []).rx.ahead = [] ∧
      (zeros 253).length ≤ 253 :=
  ⟨rfl, rfl, rfl, by simp⟩

/-- The four rows are commands. -/
theorem rows_are_commands (via : Via) (p : List Byte) :
    isCommand (.cmdQueryAlarm via p) 0x81#8 via p ∧ isCommand (.cmdClearAlarms via p) 0x8A#8 via p ∧
      isCommand (.cmdReboot via p) 0xCF#8 via p ∧ isCommand (.cmdOther 0x10#8 via p) 0x10#8 via p := by
  simp [isCommand]

/-- CommandsSendTheirFrame, CommandsTransferTheirFrame: each of the four rows, with the longest payload. -/
theorem witness_command_rows :
    isCommand (.cmdQueryAlarm .send (zeros 253)) 0x81#8 .send (zeros 253) ∧
      isCommand (.cmdClearAlarms .xfer (zeros 253)) 0x8A#8 .xfer (zeros 253) ∧
      isCommand (.cmdReboot .send (zeros 253)) 0xCF#8 .send (zeros 253) ∧
      isCommand (.cmdOther 0x10#8 .xfer (zeros 253)) 0x10#8 .xfer (zeros 253) ∧ (zeros 253).length ≤ 253 ∧
      (block true 0#8 []).busy = false ∧ (block true 0#8 []).linkOpen = true :=
  ⟨(rows_are_commands _ _).1, (rows_are_commands _ _).2.1, (rows_are_commands _ _).2.2.1,
    (rows_are_commands _ _).2.2.2, by simp, rfl, rfl⟩

/-- FrameBuildingLinesWithoutFrame, ReceivedFrameWaitsBehindOlderItems, CommandLinesThatDoNotSend: the counts where
their clauses meet (the rows are those of witness_command_rows). -/
theorem witness_lines_that_do_not_send :
    (zeros 253).length ≤ 253 ∧ 253 < (zeros 254).length ∧ (zeros 254).length ≤ 511 ∧ (zeros 511).length ≤ 511 ∧
      511 < (zeros 512).length ∧ State.reset.busy = false ∧ State.reset.linkOpen = false ∧ at253.linkOpen = true ∧
      (busyNow State.reset).busy = true := by simp [State.reset, at253, busyNow, block, withOperands]

/-- Two rows, on a link that sends. -/
theorem witness_BehaviourIsIndependentOfCmd :
    isCommand (.cmdReboot .send [7#8]) 0xCF#8 .send [7#8] ∧ isCommand (.cmdOther 2#8 .send [7#8]) 2#8 .send [7#8] ∧
      goesOn (exec (.cmdReboot .send [7#8]) (block true 0#8 [])) (fun t => t.seq == 1#8) = true :=
  ⟨.inr (.inr (.inr ⟨rfl, rfl⟩)), .inl rfl, rfl⟩

/-- V-ENC rows 18 to 20 and row 1. -/
theorem witness_EncodeRefusesExactlyBadArguments :
    encodeFrame 256 0 [] = .error .invalidArgument ∧ encodeFrame 0 (-1) [] = .error .invalidArgument ∧
      encodeFrame 0x8A 256 [] = .error .invalidArgument ∧ encodeFrame 255 255 [0xFF#8] ≠ .error .invalidArgument := by
  decide

/-- EncodedFrameIsValidAndInjective: S1. -/
theorem witness_EncodedFrameIsValidAndInjective : encodeFrame 0x8A 0 [] = .ok s1Frame := by rfl

/-- DecodeConsumesExactly, ValidFlagMeansValidFrame, RecvDeliversWhateverFollowsTheMarker: the length bytes 0 and 255,
whole and one byte short. -/
theorem witness_DecodeConsumesExactly :
    (zeros 3).length = (0#8 : Byte).toNat + 3 ∧ (zeros 258).length = (255#8 : Byte).toNat + 3 ∧
      (zeros 257).length < (255#8 : Byte).toNat + 3 ∧ (zeros 2).length < (0#8 : Byte).toNat + 3 ∧
      ¬((0x55#8 : Byte) = 0xAA#8 ∧ (0xAA#8 : Byte) = 0xAA#8) ∧ ([0x55#8] : List Byte).length < 2 := by
  simp

/-- V-DEC rows 4 and 9: what a `decode` that returns has consumed. -/
theorem witness_DecodeDependsOnlyOnItemsConsumed :
    RxStream.decode ⟨0, [RxItem.byte 0x55#8, .byte 0xAA#8] ++ [.never], 0⟩ =
        (.error .badHeader, ⟨0 + 2, [.never], 0⟩) ∧
      RxStream.decode ⟨0, s1Frame.map RxItem.byte ++ [.never], 0⟩ =
        (.frame ⟨0x02#8, s1Frame.drop 3⟩, ⟨0 + 8, [.never], 0⟩) := ⟨rfl, rfl⟩

/-- DecodeOfEncodeHandsBackFields: the longest payload. -/
theorem witness_DecodeOfEncodeHandsBackFields : (zeros 253).length ≤ 253 := by simp

/-- ShortLengthByteIsFlagged: the last length byte that is too short. -/
theorem witness_ShortLengthByteIsFlagged : (1#8 : Byte).toNat < 2 := by decide

theorem witness_RecvDeliversWhateverFollowsTheMarker :
    let items := (0xAA#8 :: 0xAA#8 :: 0#8 :: zeros 3).map RxItem.byte
    (block true 0#8 items).busy = false ∧ (block true 0#8 items).linkOpen = true ∧
      (zeros 3).length = (0#8 : Byte).toNat + 3 ∧ (block true 0#8 items).rx.ahead = items ++ [] := by decide

/-- Two blocks that sent different commands with different `SEQ`, one stream. -/
theorem witness_ReceptionIgnoresWhatWasSent :
    let s := withOperands 1#8 0#8 0#9 [] (block true 7#8 [.streamEnd])
    let s' := block true 0#8 [.streamEnd]
    s.rx = s'.rx ∧ (samplePlen s).toNat ≤ 253 ∧ goesOn (exec .xfer s) (fun _ => true) = true ∧
      goesOn (exec .recv s') (fun t => !t.busy) = true := ⟨rfl, by decide, rfl, rfl⟩

/-- V-XFER row 7. -/
theorem witness_XferOnNeverStaysBusy :
    let s := withOperands 0x81#8 0#8 0#9 [] (block true 0#8 [.never])
    s.busy = false ∧ s.em.state = .idle ∧ s.linkOpen = true ∧ (samplePlen s).toNat ≤ 253 ∧
      s.rx.ahead = .never :: [] ∧ s.inputs = [] := by decide

/-- A block whose read never returned. -/
def hungBlock : State := hangAt .hdr0 (block true 0#8 [.never])

/-- A hung block whose host reads `BUSY`, and one whose host resets it. -/
theorem witness_OnlyResetLeavesAReadThatNeverReturns :
    State.hung { hungBlock with inputs := [.read .busy] } = true ∧
      goesOn (step { hungBlock with inputs := [.read .busy] }) State.hung = true ∧
      goesOn (step { hungBlock with inputs := [.reset] }) (fun t => !t.busy) = true := ⟨rfl, rfl, rfl⟩

/-- The three ways the link changes. -/
theorem witness_LinkChangesOnlyByConnectDisconnectReset :
    goesOn (step { answerConnect true State.reset with inputs := [.present ⟨.op, [1#8]⟩] }) State.linkOpen = true ∧
      goesOn (step { block true 0#8 [] with inputs := [.presentSerial 2#3] }) (fun t => !t.linkOpen) = true ∧
      goesOn (step { block true 0#8 [] with inputs := [.reset] }) (fun t => !t.linkOpen) = true := ⟨rfl, rfl, rfl⟩

/-- SeqMovesOnlyWithASentFrame, SentFramesCarrySuccessiveSequenceNumbers: a list of operations that all complete. -/
theorem witness_SentFramesCarrySuccessiveSequenceNumbers :
    ((runOps [.cmdQueryAlarm .send [], .enc, .send] (withOperands 1#8 2#8 0#9 [] (block true 0xFF#8 []))).map
      State.seq) = some 1#8 := by rfl

/-- HostWriteChangesOneOperand: the last index of `TXBUF` and the first beyond it; and a busy block. -/
theorem witness_HostWriteChangesOneOperand :
    ({ State.reset with inputs := [.write (.txbuf 252 1#8)] } : State).inputs = .write (.txbuf 252 1#8) :: [] ∧
      252 < 253 ∧ 253 ≤ 253 ∧ State.reset.busy = false ∧ (busyNow State.reset).busy = true := by decide

/-- HostReadHasNoSideEffect: a byte that holds a value; the last index of each buffer and the first beyond it; and a busy
block whose host reads a result register, and one whose host reads `BUSY`. -/
theorem witness_HostReadHasNoSideEffect :
    let s : State := { storeFrame (.ok s1Frame) State.reset with inputs := [.read (.fbuf 7)] }
    s.inputs = .read (.fbuf 7) :: [] ∧ s.busy = false ∧ 7 < s.enc.flen.toNat ∧
      Memory.read s.enc.fbuf 7 = some 0x0A#8 ∧ 260 < 261 ∧ 261 ≤ 261 ∧ 257 < 258 ∧ 258 ≤ 258 ∧
      ({ hungBlock with inputs := [.read .status] } : State).busy = true ∧
      ReadReg.status ∉ [ReadReg.seq, .linkOpen, .busy] ∧
      step { hungBlock with inputs := [.read .status] } = .refused .resultReadWhileBusy ∧
      ReadReg.busy ∈ [ReadReg.seq, .linkOpen, .busy] ∧
      goesOn (step { hungBlock with inputs := [.read .busy] }) (fun t => t.observed == [⟨.busy, 1⟩]) = true := by
  refine ⟨rfl, rfl, by decide, rfl, by decide, by decide, by decide, by decide, rfl, by decide, rfl, by decide, rfl⟩

/-- A block whose host has written every operand but one. -/
def unwritten (o : OperandRegs → OperandRegs) (s : State) : State := { s with opr := o s.opr }

/-- UnwrittenOperandMarksTheRun: nothing written; everything; a payload byte missing; `SEQ_IN` missing, which ENC alone
reads; `CMD_ID` missing, with a payload that is not too long and with one that is. -/
theorem witness_UnwrittenOperandMarksTheRun :
    let full := withOperands 1#8 2#8 1#9 [3#8] (block true 0#8 [.streamEnd])
    let noSeqIn := unwritten (fun o => { o with seqInSet := false }) full
    let noCmdId := unwritten fun o => { o with cmdIdSet := false }
    State.reset.busy = false ∧ readsUnwritten true State.reset = true ∧
      goesOn (exec .enc full) State.good = true ∧ goesOn (exec .xfer full) State.good = true ∧
      readsUnwritten false at253 = true ∧ readsUnwritten true noSeqIn = true ∧
      goesOn (exec .send noSeqIn) State.good = true ∧ readsUnwritten false (noCmdId full) = true ∧
      goesOn (exec .xfer (noCmdId at254)) State.good = true := ⟨rfl, rfl, rfl, rfl, rfl, rfl, rfl, rfl, rfl⟩

/-- DecodeOfEncodeIsIdentity, DecodedWordIsTheInstructionsWord. -/
theorem witness_encodings :
    (Instr.cmdOther 0x80#8 .xfer [1#8]).wf = true ∧ Port.cmd ≠ .op ∧
      decode .cmd [0x80#8, 1#8, 1#8, 0#8, 1#8, 9#8] = .ok (.cmdOther 0x80#8 .xfer [1#8], [9#8]) := ⟨rfl, by decide, rfl⟩

/-- StepRunsTheDecodedInstruction: a word of `OP`, and a command line. -/
theorem witness_StepRunsTheDecodedInstruction :
    decodeWord ⟨.op, [4#8]⟩ = .ok .send ∧ decodeWord ⟨.cmd, [0xCF#8, 0#8, 0#8, 0#8]⟩ = .ok (.cmdReboot .send []) ∧
      (State.reset.withFetchWord 8 4).inputs = .present ⟨.op, [4#8]⟩ :: [] := ⟨rfl, rfl, rfl⟩

/-- DeliveredBytesAreReceivedWhateverTheyAre: a busy block and a closed one; a wrong start and bytes behind it; a whole
frame of length byte 0 and a byte behind it; the same one byte short; a marker alone; one byte. -/
theorem witness_DeliveredBytesAreReceivedWhateverTheyAre :
    (offered [0x55#8]).inputs = .present ⟨.frameIn, [0x55#8]⟩ :: [] ∧ (offered [0x55#8]).rx.ahead = [] ∧
      (offered [0x55#8]).busy = false ∧ (offered [0x55#8]).linkOpen = true ∧
      (busyNow (offered [0x55#8])).busy = true ∧ (closed (offered [0x55#8])).linkOpen = false ∧
      ¬((0x55#8 : Byte) = 0xAA#8 ∧ (0xAA#8 : Byte) = 0xAA#8) ∧ (zeros 3).length = (0#8 : Byte).toNat + 3 ∧
      (zeros 2).length < (0#8 : Byte).toNat + 3 ∧
      goesOn (step (offered (0xAA#8 :: 0xAA#8 :: 0#8 :: zeros 4)))
        (fun t => t.status == 0#3 && t.rx.pos == 6 && t.rx.ahead == [.byte 0#8]) = true ∧
      goesOn (step (offered (0xAA#8 :: 0xAA#8 :: 0#8 :: zeros 2)))
        (fun t => t.status == 3#3 && t.rx.pos == 6) = true ∧
      goesOn (step (offered [0xAA#8, 0xAA#8])) (fun t => t.status == 3#3 && t.rx.pos == 3) = true := by
  refine ⟨rfl, rfl, rfl, rfl, rfl, rfl, by decide, rfl, by decide, rfl, rfl, rfl⟩

/-- A block in which the encoder machine is at a state, with `FLEN` bytes produced. -/
def encodingAt (e : EState) (flen : Count) (m : EncMachine) : State :=
  { at253 with busy := true, em := { m with state := e }, enc := { fbuf := [], flen := flen } }

/-- ElapseTakesOneStepOfTheBlock: a block between operations, one with a step to take, one whose read does not return. -/
theorem witness_ElapseTakesOneStepOfTheBlock :
    let s := { encodingAt .hdr0 0#9 State.reset.em with inputs := [.elapse] }
    (({ at253 with inputs := [.elapse] } : State).busy = false) ∧ s.inputs = .elapse :: [] ∧ s.busy = true ∧
      goesOn (step { s with inputs := [] }) (fun _ => true) = true ∧ hungBlock.busy = true ∧
      step { hungBlock with inputs := [] } = .fault .readNeverReturns := ⟨rfl, rfl, rfl, rfl, rfl, rfl⟩

/-- SerialIssueFollowsItsRule: a busy block; each code, with `PLEN` 253 and 254, the link open and closed. -/
theorem witness_SerialIssueFollowsItsRule :
    let issued (op : BitVec 3) (s : State) : State := { s with inputs := [.presentSerial op] }
    (issued 4#3 at253).inputs = .presentSerial 4#3 :: [] ∧ (issued 4#3 (busyNow at253)).busy = true ∧
      (issued 4#3 at253).busy = false ∧ (samplePlen (issued 4#3 at253)).toNat = 253 ∧
      (samplePlen (issued 4#3 at254)).toNat = 254 ∧ (issued 5#3 (closed at253)).linkOpen = false ∧
      ([0, 1, 2, 3, 4, 5, 6, 7].all fun k => goesOn (step (issued (BitVec.ofNat 3 k) at253)) fun t =>
        t.busy == decide (3 ≤ k ∧ k ≤ 6)) = true ∧
      goesOn (step (issued 6#3 at253)) (fun t => t.em.send && t.em.xRecv && !t.em.nolink) = true ∧
      goesOn (step (issued 6#3 (closed at253))) (fun t => !t.em.send && !t.em.xRecv && t.em.nolink) = true :=
  ⟨rfl, rfl, rfl, rfl, rfl, rfl, rfl, rfl, rfl⟩

/-- EncoderStepFollowsItsRow, EncoderCompletionFollowsItsRule: the last byte of the longest frame, and the four ways it
completes. -/
theorem witness_encoder_steps :
    let m := { State.reset.em with plen := 253#8 }
    (encodingAt .fin0 259#9 m).inputs = [] ∧ (encodingAt .fin0 259#9 m).busy = true ∧
      (encodingAt .fin1 260#9 { m with nolink := true }).enc.flen.toNat < 261 ∧
      (encodingAt .fin1 260#9 { m with send := true }).em.nolink = false ∧
      (encodingAt .fin1 260#9 { m with send := true, xRecv := true }).em.xRecv = true := by decide

/-- A block in which the decoder machine is at a state. -/
def decodingAt (d : DState) (rxLen : Byte) (rxCnt rem : Count) (items : List RxItem) : State :=
  { block true 0#8 items with
    busy := true
    dm := { State.reset.dm with state := d, h0 := 0xAA#8, rem := rem }
    dec := { rxLen := rxLen, rxbuf := Memory.ofBytes 0 (zeros rxCnt.toNat), rxCnt := rxCnt, flags := Flags.clear } }

/-- DecoderStepTakesOneItem: each kind of item, each state; and a free item. -/
theorem witness_DecoderStepTakesOneItem :
    let s := decodingAt .hdr1 0#8 0#9 0#9 [.byte 0xAA#8]
    takesItem s.rx (.byte 0xAA#8) ⟨1, [], 0⟩ ∧ s.dm.h0 = 0xAA#8 ∧ s.dm.state ≠ .idle ∧ s.em.state = .idle ∧
      s.inputs = [] ∧ s.busy = true ∧
      takesItem (decodingAt .len 0#8 0#9 0#9 [.streamEnd]).rx .streamEnd ⟨1, [], 0⟩ ∧
      takesItem (decodingAt .hdr0 0#8 0#9 0#9 [.never]).rx .never ⟨1, [], 0⟩ ∧
      takesItem (decodingAt .hdr0 0#8 0#9 0#9 []).rx (Config.rxItem 0) ⟨1, [], 1⟩ :=
  ⟨.inl ⟨[], rfl, rfl⟩, rfl, by decide, rfl, rfl, rfl, .inl ⟨[], rfl, rfl⟩, .inl ⟨[], rfl, rfl⟩, .inr ⟨rfl, rfl, rfl⟩⟩

/-- DecoderBodyStoresAndValidates: the last byte of a frame of length 0, and the one before it. -/
theorem witness_DecoderBodyStoresAndValidates :
    let s := decodingAt .body 0#8 2#9 1#9 [.byte 0x0A#8]
    let s' := decodingAt .body 0#8 1#9 2#9 [.byte 0x0D#8]
    s.dm.state = .body ∧ s.busy = true ∧ s.dec.rxCnt.toNat < 258 ∧ s.dm.rem.toNat = 1 ∧ s'.dm.state = .body ∧
      1 < s'.dm.rem.toNat ∧ s'.rx.ahead = .byte 0x0D#8 :: [] := by decide

/-- StepKeepsLayout, StepKeepsContents, StepKeepsTxWholeFrames, LayoutExcludesMachineFaults: a block in the middle of a
body, one in the middle of a frame, and one between operations, whose steps go on. -/
theorem witness_invariants :
    let s := decodingAt .body 0#8 2#9 1#9 [.byte 0x0A#8]
    s.layout = true ∧ goesOn (step s) (fun _ => true) = true ∧
      (((stepsOn 7 traceStart).map fun t => (t.layout, t.contents, sentPart t)) =
        some (true, true, row5Frame.take 6)) ∧
      (((stepsOn 20 traceStart).map fun t => (t.layout, t.contents, t.idle)) = some (true, true, true)) := by
  refine ⟨rfl, rfl, rfl, rfl⟩

/-- `txWhole` of a block that has sent one frame. -/
theorem witness_StepKeepsTxWholeFrames : State.txWhole { State.reset with tx := s1Frame } :=
  ⟨[s1Frame], by decide, rfl⟩

/-- SerialRealisationAgrees: an operation that completes; SerialRealisationHangsWhereWholeOneDoes: one that does not. -/
theorem witness_serial :
    let s := withOperands 0x81#8 0#8 0#9 [] (block true 0#8 [.streamEnd])
    let s' := withOperands 0x81#8 0#8 0#9 [] (block true 0#8 [.never])
    s.idle = true ∧
      goesOn (step { s with inputs := [.present ⟨.op, [(6#3).setWidth 8]⟩] }) (fun t => !t.busy) = true ∧
      s'.idle = true ∧
      goesOn (step { s' with inputs := [.present ⟨.op, [(6#3).setWidth 8]⟩] }) State.busy = true :=
  ⟨rfl, rfl, rfl, rfl⟩

/-- OperationsCompleteWhenReadsReturn: 261 items that return. -/
theorem witness_OperationsCompleteWhenReadsReturn :
    let items := List.replicate 261 (RxItem.byte 0#8)
    261 ≤ (block true 0#8 items).rx.ahead.length ∧ RxItem.never ∉ (block true 0#8 items).rx.ahead :=
  ⟨by simp only [block, List.length_replicate]; omega, fun h => by cases List.eq_of_mem_replicate h⟩

end Sys2Proof.Tests
end

/-! # The encoder function (40_encode.md): which arguments it refuses, and what an encoded frame holds -/

namespace Sys2Proof

/-! ## The frame's bytes, by position (R60) -/

section FrameBytes

variable (cmd seq : Byte) (payload : List Byte)

theorem frameBytes_payload : ((frameBytes cmd seq payload).drop 5).take payload.length = payload := by
  simp [frameBytes_eq]

/-- Behind the payload stand the checksum and the end bytes. -/
theorem frameBytes_getElem?_trailer (i : Nat) :
    (frameBytes cmd seq payload)[payload.length + 5 + i]? =
      [checksum (frameBody cmd seq payload), 0x0D#8, 0x0A#8][i]? := by
  rw [frameBytes_eq, Nat.add_right_comm]
  simp only [List.getElem?_cons_succ]
  rw [List.getElem?_append_right (Nat.le_add_right _ _), Nat.add_sub_cancel_left]

end FrameBytes

/-- A frame of a payload that fits is valid (R62): `LEN` bytes behind the length byte stands the checksum. -/
theorem validFrame_frameBytes (cmd seq : Byte) {payload : List Byte} (h : payload.length ≤ 253) :
    validFrame (frameBytes cmd seq payload) = true := by
  have hlen := lenByte_toNat h
  rw [frameBytes_eq]
  simp [validFrame, hlen, frameBody]

/-- The fields of a frame can be read back from it: the two bytes at their positions, and the payload as what stands
between them and the last three bytes. -/
theorem frameBytes_inj {cmd seq cmd' seq' : Byte} {payload payload' : List Byte} :
    frameBytes cmd seq payload = frameBytes cmd' seq' payload' ↔ cmd = cmd' ∧ seq = seq' ∧ payload = payload' := by
  constructor
  · intro h
    have hlen : payload.length = payload'.length := by simpa using congrArg List.length h
    simp only [frameBytes_eq, List.cons.injEq, true_and] at h
    obtain ⟨-, hcmd, hseq, htail⟩ := h
    exact ⟨hcmd, hseq, List.append_inj_left htail hlen⟩
  · rintro ⟨rfl, rfl, rfl⟩
    rfl

/-! ## Integers as bytes -/

/-- An integer that `encode` accepts is the value of its byte. -/
theorem toNat_ofInt_byte {n : Int} (h : 0 ≤ n ∧ n ≤ 255) : (BitVec.ofInt 8 n).toNat = n.toNat := by
  rw [BitVec.toNat_ofInt]
  omega

/-- On the integers `encode` accepts, the byte determines the integer. -/
theorem ofInt_byte_inj {m n : Int} (hm : 0 ≤ m ∧ m ≤ 255) (hn : 0 ≤ n ∧ n ≤ 255)
    (h : BitVec.ofInt 8 m = BitVec.ofInt 8 n) : m = n := by
  have hnat : m.toNat = n.toNat := by rw [← toNat_ofInt_byte hm, h, toNat_ofInt_byte hn]
  omega

end Sys2Proof

namespace Sys2Proof.Machine

/-! ## `encode` (R91, R93) -/

/-- `encode` raises its error exactly where it has no frame. -/
theorem encodeFrame_error_iff (c q : Int) (p : List Byte) :
    encodeFrame c q p = .error .invalidArgument ↔ ∀ f, encodeFrame c q p ≠ .ok f := by
  cases h : encodeFrame c q p with
  | error k => simp [encodeFrame_error h]
  | ok f => simp

/-- The checksum byte of an encoded frame is the sum of its arguments, reduced (R64). -/
theorem checksum_frameBody_ofInt {c q : Int} {p : List Byte} (hc : 0 ≤ c ∧ c ≤ 255) (hq : 0 ≤ q ∧ q ≤ 255)
    (hp : p.length ≤ 253) :
    (checksum (frameBody (BitVec.ofInt 8 c) (BitVec.ofInt 8 q) p)).toNat =
      (p.length + 2 + c.toNat + q.toNat + byteSum p) % 256 := by
  simp only [checksum, frameBody, byteSum_cons, BitVec.toNat_ofNat, lenByte_toNat hp, toNat_ofInt_byte hc,
    toNat_ofInt_byte hq, Nat.add_assoc, Nat.reducePow]

/-- `encode` is injective on what it accepts. -/
theorem encodeFrame_ok_inj {c q c' q' : Int} {p p' f : List Byte} (h : encodeFrame c q p = .ok f)
    (h' : encodeFrame c' q' p' = .ok f) : c' = c ∧ q' = q ∧ p' = p := by
  obtain ⟨hc, hq, -, hf⟩ := (encodeFrame_ok_iff c q p f).mp h
  obtain ⟨hc', hq', -, hf'⟩ := (encodeFrame_ok_iff c' q' p' f).mp h'
  obtain ⟨hcmd, hseq, hpay⟩ := frameBytes_inj.mp (hf'.symm.trans hf)
  exact ⟨ofInt_byte_inj hc' hc hcmd, ofInt_byte_inj hq' hq hseq, hpay⟩

/-- Settles O22: an encoded frame is a `frameBytes` of accepted arguments, whose bytes, validity and injectivity are
lemmas of their own. -/
theorem encodedFrameIsValidAndInjective : Obligations.EncodedFrameIsValidAndInjective := by
  unfold Obligations.EncodedFrameIsValidAndInjective
  intro c q p f h
  have hinj : ∀ (c' q' : Int) (p' : List Byte), encodeFrame c' q' p' = .ok f → c' = c ∧ q' = q ∧ p' = p :=
    fun _ _ _ h' => encodeFrame_ok_inj h h'
  obtain ⟨hc, hq, hp, rfl⟩ := (encodeFrame_ok_iff c q p f).mp h
  have hlen : ((frameBytes (BitVec.ofInt 8 c) (BitVec.ofInt 8 q) p)[2]?).map BitVec.toNat = some (p.length + 2) :=
    congrArg some (lenByte_toNat hp)
  have hsum : ((frameBytes (BitVec.ofInt 8 c) (BitVec.ofInt 8 q) p)[p.length + 5]?).map BitVec.toNat =
      some ((p.length + 2 + c.toNat + q.toNat + byteSum p) % 256) := by
    rw [frameBytes_getElem?_trailer _ _ p 0, ← checksum_frameBody_ofInt hc hq hp]
    rfl
  exact ⟨frameBytes_length _ _ _, rfl, rfl, hlen, rfl, rfl, frameBytes_payload _ _ _, hsum,
    frameBytes_getElem?_trailer _ _ p 1, frameBytes_getElem?_trailer _ _ p 2, validFrame_frameBytes _ _ hp, hinj⟩

/-- Settles O21: `encode` errs exactly where it has no frame, and where it has one is known. -/
theorem encodeRefusesExactlyBadArguments : Obligations.EncodeRefusesExactlyBadArguments := by
  unfold Obligations.EncodeRefusesExactlyBadArguments
  intro c q p
  refine ⟨?_, fun _ => encodeFrame_error⟩
  have haccepts : (∀ f, encodeFrame c q p ≠ .ok f) ↔
      ¬((0 ≤ c ∧ c ≤ 255) ∧ (0 ≤ q ∧ q ≤ 255) ∧ p.length ≤ 253) := by
    simp only [ne_eq, encodeFrame_ok_iff, ← not_exists, exists_and_left, exists_eq, and_true]
  rw [encodeFrame_error_iff, haccepts]
  omega

end Sys2Proof.Machine

/-! # The decoder function (41_decode.md): what it consumes, the round trip with `encode`, and short length bytes -/

namespace Sys2Proof.Machine

/-! ## `decode`, by the shape of what the transport has fixed (R100 to R103) -/

section Shapes

variable (p d : Nat) (rest : List RxItem)

/-- The read of the length byte (R43, R100). -/
theorem RxStream.read_one (b : Byte) :
    RxStream.read 1 ⟨p, .byte b :: rest, d⟩ = ([b], .full, ⟨p + 1, rest, d⟩) := RxStream.read_bytes [b] p d rest

/-- The read of the marker's two bytes (R43, R100). -/
theorem RxStream.read_two (a b : Byte) :
    RxStream.read 2 ⟨p, .byte a :: .byte b :: rest, d⟩ = ([a, b], .full, ⟨p + 2, rest, d⟩) :=
  RxStream.read_bytes [a, b] p d rest

/-- The marker, a length byte and `l + 3` bytes are a frame, whatever the bytes are (R100). -/
theorem RxStream.decode_frame {l : Byte} {t : List Byte} (h : t.length = l.toNat + 3) :
    RxStream.decode ⟨p, (0xAA#8 :: 0xAA#8 :: l :: t).map RxItem.byte ++ rest, d⟩ =
      (.frame ⟨l, t⟩, ⟨p + l.toNat + 6, rest, d⟩) := by
  have hbody := RxStream.read_bytes t (p + 3) d rest
  rw [h, show p + 3 + (l.toNat + 3) = p + l.toNat + 6 by omega] at hbody
  simp [RxStream.decode, RxStream.read_two, RxStream.read_one, hbody]

/-- `End` among the `l + 3` bytes behind the header (R102). -/
theorem RxStream.decode_bodyTruncated {l : Byte} {t : List Byte} (h : t.length < l.toNat + 3) :
    RxStream.decode ⟨p, (0xAA#8 :: 0xAA#8 :: l :: t).map RxItem.byte ++ .streamEnd :: rest, d⟩ =
      (.error .truncated, ⟨p + 3 + t.length + 1, rest, d⟩) := by
  have hbody := RxStream.read_short t (l.toNat + 3) (p + 3) d rest h
  simp [RxStream.decode, RxStream.read_two, RxStream.read_one, hbody]

/-- Two bytes that are not the marker (R101). -/
theorem RxStream.decode_badHeader {a b : Byte} (h : ¬(a = 0xAA#8 ∧ b = 0xAA#8)) :
    RxStream.decode ⟨p, .byte a :: .byte b :: rest, d⟩ = (.error .badHeader, ⟨p + 2, rest, d⟩) := by
  have hmarker : [a, b] ≠ [Config.startByte, Config.startByte] := by simpa using h
  simp only [RxStream.decode, RxStream.read_two, if_pos hmarker]

/-- `End` among the two bytes of the marker (R102). -/
theorem RxStream.decode_headerTruncated {h : List Byte} (hlen : h.length < 2) :
    RxStream.decode ⟨p, h.map RxItem.byte ++ .streamEnd :: rest, d⟩ =
      (.error .truncated, ⟨p + h.length + 1, rest, d⟩) := by
  simp only [RxStream.decode, RxStream.read_short h 2 p d rest hlen]

/-- `End` in place of the length byte (R102). -/
theorem RxStream.decode_lengthTruncated :
    RxStream.decode ⟨p, .byte 0xAA#8 :: .byte 0xAA#8 :: .streamEnd :: rest, d⟩ =
      (.error .truncated, ⟨p + 3, rest, d⟩) := rfl

end Shapes

/-- Settles O23: each shape of the stream is a lemma of its own. -/
theorem decodeConsumesExactly : Obligations.DecodeConsumesExactly := by
  unfold Obligations.DecodeConsumesExactly
  intro p d rest
  exact ⟨fun _ _ => RxStream.decode_frame p d rest, fun _ _ => RxStream.decode_badHeader p d rest,
    fun _ => RxStream.decode_headerTruncated p d rest, RxStream.decode_lengthTruncated p d rest,
    fun _ _ => RxStream.decode_bodyTruncated p d rest⟩

/-! ## The round trip (R107) -/

/-- What a received frame's `VALID` says (R104): the bytes received are a valid frame (R62). -/
theorem validate_valid_eq_validFrame {l : Byte} {t : List Byte} (h : t.length = l.toNat + 3) :
    (validate ⟨l, t⟩).valid = validFrame (0xAA#8 :: 0xAA#8 :: l :: t) := by
  have hwhole : t.length + 1 + 1 + 1 = l.toNat + 6 := by omega
  simp [validate, validFrame, hwhole, Bool.and_assoc]

/-- What stands behind the marker of `frameBytes`, as the frame that `decode` reads from its bytes. -/
def sentFrame (cmd seq : Byte) (payload : List Byte) : Frame :=
  ⟨lenByte payload, cmd :: seq :: (payload ++ [checksum (frameBody cmd seq payload), 0x0D#8, 0x0A#8])⟩

/-- The bytes of a frame are the marker, the length byte and the trailing bytes. -/
theorem frameBytes_eq_sentFrame (cmd seq : Byte) (payload : List Byte) :
    frameBytes cmd seq payload =
      0xAA#8 :: 0xAA#8 :: (sentFrame cmd seq payload).len :: (sentFrame cmd seq payload).trail := rfl

section SentFrame

variable (cmd seq : Byte) {payload : List Byte} (h : payload.length ≤ 253)
include h

theorem sentFrame_len_toNat : (sentFrame cmd seq payload).len.toNat = payload.length + 2 := lenByte_toNat h

theorem sentFrame_trail_length :
    (sentFrame cmd seq payload).trail.length = (sentFrame cmd seq payload).len.toNat + 3 := by
  rw [sentFrame_len_toNat cmd seq h]
  simp [sentFrame]

theorem sentFrame_commandId : (sentFrame cmd seq payload).commandId = some cmd := by
  rw [Frame.commandId, sentFrame_len_toNat cmd seq h, if_pos (Nat.le_add_left _ _)]
  rfl

theorem sentFrame_sequence : (sentFrame cmd seq payload).sequence = some seq := by
  rw [Frame.sequence, sentFrame_len_toNat cmd seq h, if_pos (Nat.le_add_left _ _)]
  rfl

theorem sentFrame_payload : (sentFrame cmd seq payload).payload = some payload := by
  rw [Frame.payload, sentFrame_len_toNat cmd seq h, if_pos (Nat.le_add_left _ _)]
  simp [sentFrame]

theorem sentFrame_checksumByte :
    (sentFrame cmd seq payload).checksumByte = some (checksum (frameBody cmd seq payload)) := by
  rw [Frame.checksumByte, sentFrame_len_toNat cmd seq h]
  simp [sentFrame]

theorem sentFrame_endBytes : (sentFrame cmd seq payload).endBytes = [0x0D#8, 0x0A#8] := by
  rw [Frame.endBytes, sentFrame_len_toNat cmd seq h]
  simp [sentFrame]

theorem sentFrame_valid : (validate (sentFrame cmd seq payload)).valid = true := by
  rw [validate_valid_eq_validFrame (sentFrame_trail_length cmd seq h), ← frameBytes_eq_sentFrame]
  exact validFrame_frameBytes cmd seq h

/-- `decode` on the bytes of a frame reads that frame and nothing behind it. -/
theorem RxStream.decode_frameBytes (p d : Nat) (rest : List RxItem) :
    RxStream.decode ⟨p, (frameBytes cmd seq payload).map RxItem.byte ++ rest, d⟩ =
      (.frame (sentFrame cmd seq payload), ⟨p + payload.length + 8, rest, d⟩) := by
  have hpos : p + (sentFrame cmd seq payload).len.toNat + 6 = p + payload.length + 8 := by
    rw [sentFrame_len_toNat cmd seq h]
    omega
  rw [frameBytes_eq_sentFrame, RxStream.decode_frame p d rest (sentFrame_trail_length cmd seq h), hpos]

end SentFrame

/-- Settles O25: `encode` gives `frameBytes`, and `decode` reads `sentFrame` from it, whose views are lemmas of their
own. -/
theorem decodeOfEncodeHandsBackFields : Obligations.DecodeOfEncodeHandsBackFields := by
  unfold Obligations.DecodeOfEncodeHandsBackFields
  intro cmd seq payload p d rest h
  have henc : encodeFrame cmd.toNat seq.toNat payload = .ok (frameBytes cmd seq payload) := by
    rw [encodeFrame_bytes, if_pos h]
  exact ⟨_, sentFrame cmd seq payload, henc, RxStream.decode_frameBytes cmd seq h p d rest,
    sentFrame_len_toNat cmd seq h, sentFrame_commandId cmd seq h, sentFrame_sequence cmd seq h,
    sentFrame_payload cmd seq h, sentFrame_checksumByte cmd seq h, sentFrame_endBytes cmd seq h,
    sentFrame_valid cmd seq h⟩

/-! ## A length byte of 0 or 1 (R105) -/

/-- With no byte before it, the checksum is that of the length byte 0 alone. -/
theorem validate_len_zero (a e0 e1 : Byte) :
    validate ⟨0#8, [a, e0, e1]⟩ = ⟨false, a == 0#8, e0 == 0x0D#8 && e1 == 0x0A#8, false⟩ := by
  simp [validate, checksum_singleton]

/-- The checksum of a length byte 1 and one byte, as a number. -/
theorem beq_checksum_one (a b : Byte) : (b == checksum [1#8, a]) = (b.toNat == (1 + a.toNat) % 256) := by
  rw [Bool.eq_iff_iff, beq_iff_eq, beq_iff_eq, ← BitVec.toNat_inj]
  simp [checksum]

theorem validate_len_one (a b e0 e1 : Byte) :
    validate ⟨1#8, [a, b, e0, e1]⟩ =
      ⟨false, b.toNat == (1 + a.toNat) % 256, e0 == 0x0D#8 && e1 == 0x0A#8, false⟩ := by
  simp [validate, ← beq_checksum_one]

/-- The views need a length byte of at least 2 (R106). -/
theorem Frame.views_eq_none {f : Frame} (h : f.len.toNat < 2) :
    f.commandId = none ∧ f.sequence = none ∧ f.payload = none := by
  have hshort : ¬2 ≤ f.len.toNat := Nat.not_le.mpr h
  exact ⟨if_neg hshort, if_neg hshort, if_neg hshort⟩

/-- Settles O27: the flags by position, the views, and `decode` on the two shapes as on any other length byte. -/
theorem shortLengthByteIsFlagged : Obligations.ShortLengthByteIsFlagged := by
  unfold Obligations.ShortLengthByteIsFlagged
  exact ⟨validate_len_zero, validate_len_one, fun l t => Frame.views_eq_none (f := ⟨l, t⟩), fun _ _ _ _ p d rest =>
    ⟨RxStream.decode_frame p d rest rfl, RxStream.decode_frame p d rest rfl⟩⟩

end Sys2Proof.Machine

/-! # The host operations (42_session_ops.md): reserved codes, CONNECT, ENC and SEND at `BUSY = 0` -/

namespace Sys2Proof.Machine

/-! ## The reserved codes (R122) -/

/-- Settles O3: both reserved codes raise `InvalidArgument`, and raising writes `STATUS` alone (R187). -/
theorem reservedCodesReportInvalidArgument : Obligations.ReservedCodesReportInvalidArgument := by
  unfold Obligations.ReservedCodesReportInvalidArgument
  exact fun _ hb => ⟨whenIdle_idle hb, whenIdle_idle hb⟩

/-! ## CONNECT (R116) -/

theorem connectOp_open {s : State} (hl : s.linkOpen = true) : connectOp s = setStatus 0#3 s :=
  if_pos hl

/-- Writing `LINK_OPEN` with the value it holds changes nothing. -/
theorem setLink_of_linkOpen_eq {b : Bool} {s : State} (h : s.linkOpen = b) : setLink b s = s := by
  rw [← h]; rfl

/-- On a closed link the drawn answer decides both the link and `STATUS`. -/
theorem connectOp_closed {s : State} (hl : s.linkOpen = false) :
    connectOp s =
      setStatus (if (drawConnect s).1 then 0#3 else 1#3) (setLink (drawConnect s).1 (drawConnect s).2) := by
  have hstays : setLink false (drawConnect s).2 = (drawConnect s).2 :=
    setLink_of_linkOpen_eq ((drawConnect_linkOpen s).trans hl)
  unfold connectOp
  rw [if_neg (by simp [hl])]
  cases hok : (drawConnect s).1 with
  | true => simp [hok, statusOk]
  | false => simp [hok, hstays, ErrorKind.code]

/-- The answer drawn is the first one fixed, where one is. -/
theorem drawConnect_fixed {s : State} {ok : Bool} {rest : List Bool} (h : s.env.connectAhead = ok :: rest) :
    drawConnect s = (ok, { s with env := { s.env with connectAhead := rest } }) := by
  simp [drawConnect, h]

/-- Where no answer is fixed it is a free value, and the count of free answers moves on. -/
theorem drawConnect_free {s : State} (h : s.env.connectAhead = []) :
    drawConnect s = (Config.connectOk s.env.connectDraws,
      { s with env := { s.env with connectDraws := s.env.connectDraws + 1 } }) := by
  simp [drawConnect, h]

/-- Settles O4: by the link, then by whether the transport's answer is fixed or free. -/
theorem connectFollowsTransportAnswer : Obligations.ConnectFollowsTransportAnswer := by
  unfold Obligations.ConnectFollowsTransportAnswer
  intro s hb
  have hexec : exec .connect s = .next (connectOp s) := whenIdle_idle hb
  refine ⟨fun hl => ?_, fun hl => ⟨fun ok rest hfix => ?_, fun hfree => ⟨Config.connectOk s.env.connectDraws, ?_⟩⟩⟩
  · rw [hexec, connectOp_open hl]; rfl
  · rw [hexec, connectOp_closed hl, drawConnect_fixed hfix]; rfl
  · rw [hexec, connectOp_closed hl, drawConnect_free hfree]; rfl

/-! ## ENC and SEND (R118, R119, R124) -/

/-- A frame of a sampled payload that is not too long stands whole in `FBUF`. -/
theorem holdsFrame_sampled {s : State} (h : (samplePlen s).toNat ≤ 253) (c q : Byte) :
    holdsFrame (frameBytes c q (samplePayload s))
      { fbuf := Memory.ofBytes 0 (frameBytes c q (samplePayload s))
        flen := BitVec.ofNat 9 (frameBytes c q (samplePayload s)).length } :=
  holdsFrame_ofBytes (by rw [frameBytes_length, samplePayload_length]; omega)

theorem encOp_tooLong {s : State} (h : 253 < (samplePlen s).toNat) :
    encOp s = setStatus 4#3 (storeFrame (.error .invalidArgument) (chargeHost true s)) := by
  rw [encOp_eq, if_neg (Nat.not_le.mpr h)]

theorem encOp_built {s : State} (h : (samplePlen s).toNat ≤ 253) :
    encOp s =
      setStatus 0#3 (storeFrame (.ok (frameBytes (sampleCmdId s) (sampleSeqIn s) (samplePayload s)))
        (chargeHost true s)) := by
  rw [encOp_eq, if_pos h]

/-- What ENC can change, whatever `PLEN` is. -/
theorem encOp_frame (s : State) :
    encOp s = { s with
      enc := (encOp s).enc
      status := (encOp s).status
      hostFault := (encOp s).hostFault } := by
  rcases Nat.lt_or_ge 253 (samplePlen s).toNat with hp | hp
  · rw [encOp_tooLong hp]; rfl
  · rw [encOp_built hp]; rfl

/-- Settles O6: by `PLEN`, at 253 and 254. -/
theorem encBuildsFrameInFbuf : Obligations.EncBuildsFrameInFbuf := by
  unfold Obligations.EncBuildsFrameInFbuf
  intro s hb
  refine ⟨encOp s, whenIdle_idle hb, fun hp => ?_, fun hp => ?_, encOp_frame s⟩
  · rw [encOp_built hp]
    exact ⟨holdsFrame_sampled hp _ _, rfl⟩
  · rw [encOp_tooLong hp]
    exact ⟨holdsNothing_empty, rfl⟩

/-- What SEND can change, whatever `PLEN` and the link are. -/
theorem sendOp_frame (s : State) :
    sendOp s = { s with
      enc := (sendOp s).enc
      status := (sendOp s).status
      tx := (sendOp s).tx
      seq := (sendOp s).seq
      hostFault := (sendOp s).hostFault } := by
  rcases Nat.lt_or_ge 253 (samplePlen s).toNat with hp | hp
  · rw [sendOp_tooLong hp]; rfl
  · rcases s.linkOpen.eq_false_or_eq_true with hl | hl
    · rw [sendOp_sent hp hl]; rfl
    · rw [sendOp_closed hp hl]; rfl

/-- The frame stands in `FBUF` whether or not the link let it be sent. -/
theorem holdsFrame_sendOp {s : State} (h : (samplePlen s).toNat ≤ 253) : holdsFrame (sendFrame s) (sendOp s).enc := by
  rcases s.linkOpen.eq_false_or_eq_true with hl | hl
  · rw [sendOp_sent h hl]; exact holdsFrame_sampled h _ _
  · rw [sendOp_closed h hl]; exact holdsFrame_sampled h _ _

/-- Settles O7: by `PLEN`, at 253 and 254, and by the link. -/
theorem sendAppendsFrameAndAdvancesSeq : Obligations.SendAppendsFrameAndAdvancesSeq := by
  unfold Obligations.SendAppendsFrameAndAdvancesSeq
  intro s hb f
  refine ⟨sendOp s, whenIdle_idle hb, fun hp => ?_,
    fun hp => ⟨holdsFrame_sendOp hp, fun hl => ?_, fun hl => ?_⟩, sendOp_frame s⟩
  · rw [sendOp_tooLong hp]
    exact ⟨holdsNothing_empty, rfl, rfl, rfl⟩
  · rw [sendOp_sent hp hl]
    exact ⟨rfl, rfl, rfl⟩
  · rw [sendOp_closed hp hl]
    exact ⟨rfl, rfl, rfl⟩

end Sys2Proof.Machine

/-! # The byte-serial realisation (43_byte_serial_machines.md): the encoder's last step -/

namespace Sys2Proof.Machine

/-! ## The byte an encoder step produces (R143) -/

/-- What `emit(b)` alone does: the byte in `FBUF` and, when `e_send = 1`, in `TX`. -/
def emitted (b : Byte) (s : State) : State :=
  { s with
    enc := { fbuf := Memory.write s.enc.fbuf s.enc.flen.toNat b, flen := s.enc.flen + 1#9 }
    tx := if s.em.send then s.tx ++ [b] else s.tx }

theorem emit_of_room {b : Byte} {further : State → State} {s : State} (h : s.enc.flen.toNat < 261) :
    emit b further s = .next (further (emitted b s)) := if_pos h

/-- Where `FBUF` has room, `FLEN` does not wrap. -/
theorem emitted_flen_toNat {s : State} (h : s.enc.flen.toNat < 261) (b : Byte) :
    (emitted b s).enc.flen.toNat = s.enc.flen.toNat + 1 := by
  simp only [emitted]
  bv_omega

theorem emitted_read_fbuf (b : Byte) (s : State) (a : Nat) :
    Memory.read (emitted b s).enc.fbuf a = if a = s.enc.flen.toNat then some b else Memory.read s.enc.fbuf a := by
  simp only [emitted, Memory.read_write, eq_comm]

/-- The last step of the encoder produces `0x0A` and completes the operation (R144). -/
theorem step_fin1 {s : State} (hi : s.inputs = []) (hb : s.busy = true) (hf : s.em.state = .fin1)
    (hroom : s.enc.flen.toNat < 261) : step s = .next (encDone (emitted 0x0A#8 s)) := by
  rw [step_of_no_input hi hb, machineStep_enc (by simp [hf]), encStep, hf]
  exact emit_of_room hroom

/-! ## The four ways the encoder completes (R145) -/

/-- A SEND or XFER without a link. -/
theorem encDone_noLink {s : State} (hn : s.em.nolink = true) :
    encDone s = setBusy false (setStatus 1#3 (encTo .idle s)) := by
  rw [encDone, if_pos hn]; rfl

/-- An ENC. -/
theorem encDone_enc {s : State} (hn : s.em.nolink = false) (hs : s.em.send = false) :
    encDone s = setBusy false (setStatus 0#3 (encTo .idle s)) := by
  simp [encDone, hn, hs, statusOk]

/-- A SEND on an open link. -/
theorem encDone_send {s : State} (hn : s.em.nolink = false) (hs : s.em.send = true) (hx : s.em.xRecv = false) :
    encDone s = setBusy false (setStatus 0#3 (bumpSeq (encTo .idle s))) := by
  simp [encDone, hn, hs, hx, statusOk]

/-- An XFER on an open link goes on to its RECV half. -/
theorem encDone_xfer {s : State} (hn : s.em.nolink = false) (hs : s.em.send = true) (hx : s.em.xRecv = true) :
    encDone s = setDm { s.dm with state := .hdr0 } (clearDec (bumpSeq (encTo .idle s))) := by
  simp [encDone, hn, hs, hx]

/-- Settles O46: the byte is `emitted`, and the four cases of the completion are lemmas of their own. -/
theorem encoderCompletionFollowsItsRule : Obligations.EncoderCompletionFollowsItsRule := by
  unfold Obligations.EncoderCompletionFollowsItsRule
  intro s hi hb hf hroom
  obtain ⟨henc, htx, hrx, hlink, hopr, hem⟩ := encDone_keeps (emitted 0x0A#8 s)
  refine ⟨encDone (emitted 0x0A#8 s), step_fin1 hi hb hf hroom, hem, ?_, fun a => ?_, htx, hrx, hlink, hopr,
    fun hn => ?_, fun hn hs => ?_, fun hn hs hx => ?_, fun hn hs hx => ?_⟩
  · rw [henc]; exact emitted_flen_toNat hroom _
  · rw [henc]; exact emitted_read_fbuf _ s a
  · rw [encDone_noLink (s := emitted 0x0A#8 s) hn]; exact ⟨rfl, rfl, rfl, rfl, rfl⟩
  · rw [encDone_enc (s := emitted 0x0A#8 s) hn hs]; exact ⟨rfl, rfl, rfl, rfl, rfl⟩
  · rw [encDone_send (s := emitted 0x0A#8 s) hn hs hx]; exact ⟨rfl, rfl, rfl, rfl, rfl⟩
  · rw [encDone_xfer (s := emitted 0x0A#8 s) hn hs hx]; exact ⟨rfl, hb, rfl, rfl, rfl⟩

end Sys2Proof.Machine

/-! # The encodings (30_encoding.md): a word and its instruction determine each other -/

namespace Sys2Proof

/-! ## Command lines (R72, log 8) -/

theorem decodeVia_encodeVia (via : Via) : decodeVia (encodeVia via) = some via := by cases via <;> rfl

theorem decodeVia_eq_some {b : Byte} {via : Via} (h : decodeVia b = some via) : b = encodeVia via := by
  unfold decodeVia at h
  split at h
  · next hb => cases h; exact hb
  · split at h
    · next hb => cases h; exact hb
    · cases h

/-- The two count bytes of a command line hold its count, low byte first. -/
theorem countBytes_eq {n : Nat} (h : n ≤ 511) : n % 256 + 256 * (n / 256 % 256) = n := by omega

theorem decodeCmdLine_encodeCmdLine (cmd : Byte) (via : Via) {payload : List Byte} (rest : List Byte)
    (h : payload.length ≤ 511) :
    decodeCmdLine (encodeCmdLine cmd via payload ++ rest) = .ok (decodeCmd cmd via payload, rest) := by
  simp [decodeCmdLine, encodeCmdLine, decodeVia_encodeVia, countBytes_eq h, Nat.not_lt.mpr h]

/-- What the decoder accepts of a command line is a command line, and what is left. -/
theorem decodeCmdLine_eq_ok {bs rest : List Byte} {i : Instr} (h : decodeCmdLine bs = .ok (i, rest)) :
    ∃ cmd via payload, payload.length ≤ 511 ∧ i = decodeCmd cmd via payload ∧
      bs = encodeCmdLine cmd via payload ++ rest := by
  unfold decodeCmdLine at h
  split at h
  case h_2 => cases h
  next cmd vb lo hi tl =>
    dsimp only at h
    split at h
    · cases h
    · next via hvia =>
      split at h
      · cases h
      · next hcount =>
        split at h
        · cases h
        · next hlen =>
          have hn : (tl.take (lo.toNat + 256 * hi.toNat)).length = lo.toNat + 256 * hi.toNat :=
            List.length_take_of_le (Nat.not_lt.mp hlen)
          have hlo : BitVec.ofNat 8 ((lo.toNat + 256 * hi.toNat) % 256) = lo := by
            apply BitVec.eq_of_toNat_eq; simp only [BitVec.toNat_ofNat]; omega
          have hhi : BitVec.ofNat 8 ((lo.toNat + 256 * hi.toNat) / 256) = hi := by
            apply BitVec.eq_of_toNat_eq; simp only [BitVec.toNat_ofNat]; omega
          cases h
          refine ⟨cmd, via, tl.take (lo.toNat + 256 * hi.toNat), by omega, rfl, ?_⟩
          simp only [encodeCmdLine, hn, hlo, hhi, ← decodeVia_eq_some hvia, List.cons_append, List.take_append_drop]

/-- The instruction of a command line has that line as its word. -/
theorem encode_decodeCmd (cmd : Byte) (via : Via) (payload : List Byte) :
    encode (decodeCmd cmd via payload) = ⟨.cmd, encodeCmdLine cmd via payload⟩ := by
  unfold decodeCmd
  split
  · next h => rw [h]; rfl
  · split
    · next h => rw [h]; rfl
    · split
      · next h => rw [h]; rfl
      · rfl

/-- A command line names no default row for a byte that has a row of its own. -/
theorem wf_decodeCmd (cmd : Byte) (via : Via) {payload : List Byte} (h : payload.length ≤ 511) :
    (decodeCmd cmd via payload).wf = true := by
  have hcount : countFitsPlen payload = true := decide_eq_true h
  unfold decodeCmd
  split
  · exact hcount
  · split
    · exact hcount
    · split
      · exact hcount
      · next h1 h2 h3 => simp [Instr.wf, hcount, namedCmds, h1, h2, h3]

/-- The default row, with a byte it is for, is what its byte names. -/
theorem decodeCmd_other {cmd : Byte} (via : Via) (payload : List Byte) (h : namedCmds.contains cmd = false) :
    decodeCmd cmd via payload = .cmdOther cmd via payload := by
  simp only [namedCmds, List.contains_cons, List.contains_nil, Bool.or_false, Bool.or_eq_false_iff,
    beq_eq_false_iff_ne, ne_eq] at h
  obtain ⟨h1, h2, h3⟩ := h
  simp [decodeCmd, h1, h2, h3]

/-! ## The wire frame (R60, R62) -/

theorem decodeFrameWord_frameBytes (dir : FrameDir) (cmd seq : Byte) {payload : List Byte} (rest : List Byte)
    (h : payload.length ≤ 253) :
    decodeFrameWord dir (frameBytes cmd seq payload ++ rest) = .ok (.frame dir cmd seq payload, rest) := by
  have hlen := lenByte_toNat h
  simp [decodeFrameWord, frameBytes_eq, hlen, frameBody]

/-- A list cut at three known bytes. -/
theorem eq_take_append_of_getElem? {l : List Byte} {n : Nat} {a b c : Byte} (ha : l[n]? = some a)
    (hb : l[n + 1]? = some b) (hc : l[n + 2]? = some c) : l = l.take n ++ a :: b :: c :: l.drop (n + 3) := by
  conv_lhs => rw [← List.take_append_drop n l]
  rw [List.drop_eq_getElem?_toList_append, ha, List.drop_eq_getElem?_toList_append (i := n + 1), hb,
    List.drop_eq_getElem?_toList_append (i := n + 1 + 1), hc]
  rfl

/-- What the decoder accepts of the wire is a frame whose payload fits, and what is left. -/
theorem decodeFrameWord_eq_ok {dir : FrameDir} {bs rest : List Byte} {i : Instr}
    (h : decodeFrameWord dir bs = .ok (i, rest)) :
    ∃ cmd seq payload, payload.length ≤ 253 ∧ i = .frame dir cmd seq payload ∧
      bs = frameBytes cmd seq payload ++ rest := by
  unfold decodeFrameWord at h
  split at h
  case h_2 => cases h
  next a0 a1 len cmd seq tl =>
    dsimp only at h
    split at h
    · cases h
    · next hstart =>
      split at h
      · cases h
      · next htwo =>
        split at h
        · cases h
        · next hlen =>
          split at h
          · cases h
          · next hchk =>
            split at h
            · cases h
            · next hend =>
              cases h
              simp only [not_or, ne_eq, not_not] at hstart hchk hend
              obtain ⟨rfl, rfl⟩ := hstart
              have hlt := len.isLt
              have hn : (tl.take (len.toNat - 2)).length = len.toNat - 2 := List.length_take_of_le (by omega)
              have hbyte : lenByte (tl.take (len.toNat - 2)) = len := by
                apply BitVec.eq_of_toNat_eq
                rw [lenByte_toNat (by omega)]
                omega
              refine ⟨cmd, seq, tl.take (len.toNat - 2), by omega, rfl, ?_⟩
              rw [frameBytes_eq, frameBody, hbyte]
              conv_lhs => rw [eq_take_append_of_getElem? hchk hend.1 hend.2]
              simp

/-! ## All words -/

/-- Settles O38: by the row, a host operation's code, a frame or a command line. -/
theorem decodeOfEncodeIsIdentity : Obligations.DecodeOfEncodeIsIdentity := by
  unfold Obligations.DecodeOfEncodeIsIdentity
  intro i rest hwf
  cases i with
  | reserved0 | connect | disconnect | enc | send | recv | xfer | reserved7 => rfl
  | frame dir cmd seq payload =>
    have hp : payload.length ≤ 253 := of_decide_eq_true hwf
    cases dir <;> exact decodeFrameWord_frameBytes _ cmd seq rest hp
  | cmdQueryAlarm via payload => exact decodeCmdLine_encodeCmdLine _ via rest (of_decide_eq_true hwf)
  | cmdClearAlarms via payload => exact decodeCmdLine_encodeCmdLine _ via rest (of_decide_eq_true hwf)
  | cmdReboot via payload => exact decodeCmdLine_encodeCmdLine _ via rest (of_decide_eq_true hwf)
  | cmdOther cmd via payload =>
    simp only [Instr.wf, Bool.and_eq_true, Bool.not_eq_true'] at hwf
    obtain ⟨hp, hother⟩ := hwf
    exact (decodeCmdLine_encodeCmdLine cmd via rest (of_decide_eq_true hp)).trans
      (by rw [decodeCmd_other via payload hother])

/-- Settles O39: by the port, a command line or a frame in either direction. -/
theorem decodedWordIsTheInstructionsWord : Obligations.DecodedWordIsTheInstructionsWord := by
  unfold Obligations.DecodedWordIsTheInstructionsWord
  intro port bs rest i hport h
  cases port with
  | op => exact absurd rfl hport
  | cmd =>
    obtain ⟨cmd, via, payload, hp, rfl, rfl⟩ := decodeCmdLine_eq_ok h
    rw [encode_decodeCmd]
    exact ⟨wf_decodeCmd cmd via hp, rfl, rfl⟩
  | frameOut =>
    obtain ⟨cmd, seq, payload, hp, rfl, rfl⟩ := decodeFrameWord_eq_ok h
    exact ⟨decide_eq_true hp, rfl, rfl⟩
  | frameIn =>
    obtain ⟨cmd, seq, payload, hp, rfl, rfl⟩ := decodeFrameWord_eq_ok h
    exact ⟨decide_eq_true hp, rfl, rfl⟩

/-- Settles O40: each word is decoded. -/
theorem specWordsDecodeAsWritten : Obligations.SpecWordsDecodeAsWritten := by
  unfold Obligations.SpecWordsDecodeAsWritten
  exact ⟨rfl, rfl, rfl, rfl, rfl, rfl, rfl, rfl, rfl, rfl, rfl, rfl, rfl⟩

end Sys2Proof

/-! # The byte-serial machines, row by row (43_byte_serial_machines.md): what one step does -/

namespace Sys2Proof.Machine

/-! ## The encoder's rows (R144) -/

/-- The byte that the encoder's row produces. -/
def rowByte (s : State) : Byte :=
  match s.em.state with
  | .idle => 0#8
  | .hdr0 => 0xAA#8
  | .hdr1 => 0xAA#8
  | .len => s.em.plen + 2#8
  | .cmd => s.em.cmd
  | .seq => s.em.seq
  | .pay => sampleTxByte s s.em.idx.toNat
  | .chk => s.em.sum
  | .fin0 => 0x0D#8
  | .fin1 => 0x0A#8

/-- The encoder's registers after a row that produced `b`; E_END1 completes the operation and is left to `encDone`. -/
def rowMachine (b : Byte) (m : EncMachine) : EncMachine :=
  match m.state with
  | .idle => m
  | .hdr0 => { m with state := .hdr1 }
  | .hdr1 => { m with state := .len }
  | .len => { m with state := .cmd, sum := b }
  | .cmd => { m with state := .seq, sum := m.sum + b }
  | .seq => { m with state := if 0 < m.plen.toNat then .pay else .chk, sum := m.sum + b, idx := 0#8 }
  | .pay =>
    { m with
      state := if (m.idx + 1#8).toNat < m.plen.toNat then .pay else .chk
      sum := m.sum + b
      idx := m.idx + 1#8 }
  | .chk => { m with state := .fin0 }
  | .fin0 => { m with state := .fin1 }
  | .fin1 => m

/-- The state after the encoder's row, but for E_END1. -/
def rowStep (s : State) : State := setEm (rowMachine (rowByte s) s.em) (emitted (rowByte s) s)

/-- Every row but E_END1 produces its byte and moves the machine on. -/
theorem encStep_row {s : State} (hi : s.em.state ≠ .idle) (hf : s.em.state ≠ .fin1) (hroom : s.enc.flen.toNat < 261) :
    encStep s = .next (rowStep s) := by
  unfold encStep rowStep rowByte rowMachine
  cases h : s.em.state
  case idle => exact absurd h hi
  case fin1 => exact absurd h hf
  all_goals exact emit_of_room hroom

/-- E_END1 produces the last byte and completes the operation. -/
theorem encStep_fin1 {s : State} (hf : s.em.state = .fin1) (hroom : s.enc.flen.toNat < 261) :
    encStep s = .next (encDone (emitted 0x0A#8 s)) := by
  rw [encStep, hf]
  exact emit_of_room hroom

/-- An encoder step goes on just where `FBUF` has room. -/
theorem encStep_next_room {s t : State} (h : encStep s = .next t) : s.enc.flen.toNat < 261 := by
  unfold encStep at h
  split at h
  · cases h
  all_goals exact (emit_next h).1

/-- No row changes what the frame is made of. -/
theorem rowMachine_keeps (b : Byte) (m : EncMachine) :
    (rowMachine b m).cmd = m.cmd ∧ (rowMachine b m).seq = m.seq ∧ (rowMachine b m).plen = m.plen ∧
      (rowMachine b m).send = m.send ∧ (rowMachine b m).nolink = m.nolink ∧ (rowMachine b m).xRecv = m.xRecv := by
  unfold rowMachine
  split <;> exact ⟨rfl, rfl, rfl, rfl, rfl, rfl⟩

/-- Settles O45: the step is the row's, whose byte and registers are `rowByte` and `rowMachine`. -/
theorem encoderStepFollowsItsRow : Obligations.EncoderStepFollowsItsRow := by
  unfold Obligations.EncoderStepFollowsItsRow
  intro s hin hb hi hf hroom
  have hstep : step s = .next (rowStep s) := by
    rw [step_of_no_input hin hb, machineStep_enc hi, encStep_row hi hf hroom]
  refine ⟨rowStep s, hstep, emitted_flen_toNat hroom _, fun a => (emitted_read_fbuf (rowByte s) s a).trans ?_, ?_⟩
  · unfold rowByte
    cases s.em.state <;> rfl
  · unfold rowStep rowByte rowMachine
    cases s.em.state <;> rfl

/-! ## The body row of the decoder (R151, R152) -/

/-- The state in which the byte `b` of the body is stored and the validator updated, before the test for the last
byte. -/
def stored (b : Byte) (s : State) : State :=
  let v := validateByte s.dec.rxCnt.toNat b s.dec.rxLen s.dm s.dec.flags
  setDm { v.1 with rem := s.dm.rem - 1#9 }
    (setDec
      { s.dec with
        rxbuf := Memory.write s.dec.rxbuf s.dec.rxCnt.toNat b
        rxCnt := s.dec.rxCnt + 1#9
        flags := v.2 } s)

theorem decBody_of_room {b : Byte} {s : State} (h : s.dec.rxCnt.toNat < 258) :
    decBody b s = .next (if (s.dm.rem - 1#9).toNat = 0 then decDone (stored b s) else stored b s) := by
  unfold decBody
  exact if_pos h

/-- What the validator's one line leaves of the machine (R152). -/
theorem validateByte_machine (i : Nat) (b len : Byte) (m : DecMachine) (f : Flags) :
    (validateByte i b len m f).1 =
      { m with
        sum := if i < len.toNat then m.sum + b else m.sum
        e0 := if i = len.toNat + 1 then b == 0x0D#8 else m.e0 } := by
  unfold validateByte
  dsimp only
  split
  · next h => simp [show i ≠ len.toNat + 1 by omega]
  · split
    · next h0 => simp [h0]
    · split
      · simp
      · split <;> simp

/-- What the validator's one line leaves of the flags (R152). -/
theorem validateByte_flags (i : Nat) (b len : Byte) (m : DecMachine) (f : Flags) :
    (validateByte i b len m f).2 =
      { f with
        chkOk := if i = len.toNat then b == m.sum else f.chkOk
        endOk := if i = len.toNat + 2 then m.e0 && b == 0x0A#8 else f.endOk } := by
  unfold validateByte
  dsimp only
  split
  · next h => simp [show i ≠ len.toNat by omega, show i ≠ len.toNat + 2 by omega]
  · split
    · next h0 => simp [h0]
    · split
      · next h1 => simp [h1]
      · split <;> simp

section Stored

variable (b : Byte) (s : State)

theorem stored_dm :
    (stored b s).dm =
      { s.dm with
        rem := s.dm.rem - 1#9
        sum := if s.dec.rxCnt.toNat < s.dec.rxLen.toNat then s.dm.sum + b else s.dm.sum
        e0 := if s.dec.rxCnt.toNat = s.dec.rxLen.toNat + 1 then b == 0x0D#8 else s.dm.e0 } := by
  simp only [stored, setDm_dm, validateByte_machine]

theorem stored_flags :
    (stored b s).dec.flags =
      { s.dec.flags with
        chkOk := if s.dec.rxCnt.toNat = s.dec.rxLen.toNat then b == s.dm.sum else s.dec.flags.chkOk
        endOk := if s.dec.rxCnt.toNat = s.dec.rxLen.toNat + 2 then s.dm.e0 && b == 0x0A#8
          else s.dec.flags.endOk } := by
  simp only [stored, setDm_dec, setDec_dec, validateByte_flags]

theorem stored_read_rxbuf (a : Nat) :
    Memory.read (stored b s).dec.rxbuf a = if a = s.dec.rxCnt.toNat then some b else Memory.read s.dec.rxbuf a := by
  simp only [stored, setDm_dec, setDec_dec, Memory.read_write, eq_comm]

theorem stored_rxCnt_toNat (h : s.dec.rxCnt.toNat < 258) : (stored b s).dec.rxCnt.toNat = s.dec.rxCnt.toNat + 1 := by
  simp only [stored, setDm_dec, setDec_dec]
  bv_omega

theorem stored_rem_toNat (h : 0 < s.dm.rem.toNat) : (stored b s).dm.rem.toNat + 1 = s.dm.rem.toNat := by
  simp only [stored, setDm_dm]
  bv_omega

end Stored

/-- A byte of the body that is not the last one is stored; with the last one the operation completes (R151, R154). -/
theorem decBody_cases {b : Byte} {s : State} (hroom : s.dec.rxCnt.toNat < 258) (hrem : 0 < s.dm.rem.toNat) :
    (1 < s.dm.rem.toNat → decBody b s = .next (stored b s)) ∧
      (s.dm.rem.toNat = 1 → decBody b s = .next (decDone (stored b s))) := by
  have hleft : (s.dm.rem - 1#9).toNat = s.dm.rem.toNat - 1 := by bv_omega
  rw [decBody_of_room hroom, hleft]
  exact ⟨fun h => by rw [if_neg (by omega)], fun h => by rw [if_pos (by omega)]⟩

/-- Settles O48: the byte is `stored`, and the last one completes. -/
theorem decoderBodyStoresAndValidates : Obligations.DecoderBodyStoresAndValidates := by
  unfold Obligations.DecoderBodyStoresAndValidates
  intro s b rest hin hb he hd hahead hroom hrem i n chkOk endOk
  let r : RxStream := { s.rx with pos := s.rx.pos + 1, ahead := rest }
  have hstep : step s = decBody b (setRx r s) := by
    rw [step_of_no_input hin hb, machineStep_dec he (by simp [hd]), decStep_byte hahead, decByte, setRx_dm, hd]
  obtain ⟨hgoes, hlast⟩ := decBody_cases (b := b) (s := setRx r s) hroom hrem
  have hcnt := stored_rxCnt_toNat b (setRx r s) hroom
  have hleft := stored_rem_toNat b (setRx r s) hrem
  have hread := stored_read_rxbuf b (setRx r s)
  have hdm := stored_dm b (setRx r s)
  have hh0 : (stored b (setRx r s)).dm.h0 = s.dm.h0 := by rw [hdm]; rfl
  have hflags := stored_flags b (setRx r s)
  rcases Nat.lt_or_ge 1 s.dm.rem.toNat with hmore | hone
  · exact ⟨_, hstep.trans (hgoes hmore), rfl, rfl, hcnt, hread, hleft, congrArg DecMachine.sum hdm,
      congrArg DecMachine.e0 hdm, hh0,
      fun _ => ⟨(congrArg DecMachine.state hdm).trans hd, hb, rfl, hflags⟩,
      fun h => absurd h (Nat.ne_of_gt hmore), rfl⟩
  · exact ⟨_, hstep.trans (hlast (Nat.le_antisymm hone hrem)), rfl, rfl, hcnt, hread, hleft,
      congrArg DecMachine.sum hdm, congrArg DecMachine.e0 hdm, hh0,
      fun h => absurd h (Nat.not_lt.mpr hone),
      fun _ => ⟨rfl, rfl, rfl, congrArg (validateDone s.dec.rxLen) hflags⟩, rfl⟩

/-! ## The decoder's other rows (R151, R153) -/

/-- A decoder step on a byte, fixed or free. -/
theorem decStep_of_byte {s : State} {b : Byte} {r : RxStream} (h : takesItem s.rx (.byte b) r) :
    decStep s = decByte b (setRx r s) := by
  obtain ⟨hit, hr⟩ := item_of_takesItem h
  unfold decStep
  rw [show s.rx.item = (.byte b, r) from Prod.ext hit (hr (by simp))]

/-- A decoder step on `End`, fixed or free. -/
theorem decStep_of_end {s : State} {r : RxStream} (h : takesItem s.rx .streamEnd r) :
    decStep s = .next (decError .truncated (setRx r s)) := by
  obtain ⟨hit, hr⟩ := item_of_takesItem h
  unfold decStep
  rw [show s.rx.item = (.streamEnd, r) from Prod.ext hit (hr (by simp))]

/-- A decoder step where the read does not return. -/
theorem decStep_never {s : State} (h : s.rx.item.1 = .never) : decStep s = .fault .readNeverReturns := by
  unfold decStep
  rw [show s.rx.item = (.never, s.rx.item.2) from Prod.ext h rfl]

/-- The state in which the length byte is taken (R151). -/
def lenRow (b : Byte) (s : State) : State :=
  setDm { s.dm with rem := b.setWidth 9 + BitVec.ofNat 9 Config.trailerAfterLen, sum := b, state := .body }
    (setDec { s.dec with rxLen := b } s)

/-- The count of bytes to come does not wrap: `L + 3` has 9 bits. -/
theorem lenRow_rem_toNat (b : Byte) (s : State) : (lenRow b s).dm.rem.toNat = b.toNat + 3 := by
  have := b.isLt
  simp only [lenRow, setDm_dm, Config.trailerAfterLen]
  bv_omega

/-- Settles O47: by the item taken, then by the row. -/
theorem decoderStepTakesOneItem : Obligations.DecoderStepTakesOneItem := by
  unfold Obligations.DecoderStepTakesOneItem
  intro s it r hin hb he hd htakes failed
  have hstep : step s = decStep s := by rw [step_of_no_input hin hb, machineStep_dec he hd]
  have hbyte : ∀ b, it = .byte b → step s = decByte b (setRx r s) := by
    rintro b rfl
    exact hstep.trans (decStep_of_byte htakes)
  refine ⟨fun h => ?_, ?_, fun b h hrow => ?_, fun b h hrow h0 h1 => ?_, fun b h hrow hbad => ?_, fun b h hrow => ?_⟩
  · exact hstep.trans (decStep_never ((item_of_takesItem htakes).1.trans h))
  · rintro rfl
    exact hstep.trans (decStep_of_end htakes)
  · rw [hbyte b h, decByte, setRx_dm, hrow]; rfl
  · rw [hbyte b h, decByte, setRx_dm, hrow]
    exact congrArg Host.Outcome.next (if_pos ⟨h0, h1⟩)
  · rw [hbyte b h, decByte, setRx_dm, hrow]
    exact congrArg Host.Outcome.next (if_neg hbad)
  · refine ⟨_, lenRow_rem_toNat b (setRx r s), ?_⟩
    rw [hbyte b h, decByte, setRx_dm, hrow]; rfl

/-! ## The passing of time, and a read that never returns (R42, R210) -/

theorem step_of_elapse {s : State} {rest : List Input} (h : s.inputs = .elapse :: rest) :
    step s = elapseStep (dropInput rest s) := by
  unfold step
  rw [h]

/-- While a read does not return, `State.hung` says so. -/
theorem hung_iff {s : State} :
    s.hung = true ↔ s.busy = true ∧ s.em.state = .idle ∧ s.dm.state ≠ .idle ∧ nextIsNever s.rx = true := by
  simp [State.hung, encActive, decActive, and_assoc]

/-- A machine's step that never returns leaves, once that is known, a state in which a read never returns. -/
theorem hung_of_never {s : State} (hb : s.busy = true) (h : machineStep s = .fault .readNeverReturns) :
    (setRx s.rx.item.2 s).hung = true ∧ s.rx.item.2.pos = s.rx.pos := by
  obtain ⟨he, hd, hit⟩ := machineStep_never h
  have hc := RxStream.item_cases (r := s.rx) (r' := s.rx.item.2) (it := .never) (Prod.ext hit rfl)
  simp only [ne_eq, not_true_eq_false, false_and, true_and, false_or] at hc
  exact ⟨hung_iff.mpr ⟨hb, he, hd, hc.2⟩, hc.1⟩

/-- In a state in which a read never returns the machines have no step. -/
theorem machineStep_of_hung {s : State} (h : s.hung = true) : machineStep s = .fault .readNeverReturns := by
  obtain ⟨-, he, hd, hnever⟩ := hung_iff.mp h
  rw [machineStep_dec he hd]
  exact decStep_never (by rw [RxStream.item_of_nextIsNever hnever])

/-- Settles O43: by `BUSY`, then by whether the machine's step returns. -/
theorem elapseTakesOneStepOfTheBlock : Obligations.ElapseTakesOneStepOfTheBlock := by
  unfold Obligations.ElapseTakesOneStepOfTheBlock
  intro s rest hin
  rw [step_of_elapse hin]
  refine ⟨fun hb => ?_, fun hb => ?_⟩
  · exact if_neg (by simp [hb])
  · have hnone : step { s with inputs := [] } = machineStep (dropInput [] s) := step_of_no_input rfl hb
    rw [hnone, machineStep_inputs]
    unfold elapseStep
    rw [if_pos (show (dropInput rest s).busy = true from hb), machineStep_inputs]
    refine ⟨fun t ht => ?_, fun hnever => ?_⟩
    · cases hm : machineStep s with
      | next u => rw [hm] at ht; cases ht; rfl
      | fault f => rw [hm] at ht; cases ht
      | refused r => rw [hm] at ht; cases ht
    · cases hm : machineStep s with
      | next u => rw [hm] at hnever; cases hnever
      | fault f =>
        rw [hm] at hnever; cases hnever
        obtain ⟨hhung, hpos⟩ := hung_of_never hb hm
        exact ⟨_, rfl, hhung, hpos, rfl⟩
      | refused r => rw [hm] at hnever; cases hnever

/-! ## The issue step (R141) -/

theorem plenTooLong_eq_false {s : State} (h : (samplePlen s).toNat ≤ 253) : plenTooLong s = false :=
  decide_eq_false (Nat.not_lt.mpr h)

theorem plenTooLong_eq_true {s : State} (h : 253 < (samplePlen s).toNat) : plenTooLong s = true :=
  decide_eq_true h

/-- A payload length that a frame can hold fits the 8-bit `e_plen`. -/
theorem setWidth_plen_toNat {n : Count} (h : n.toNat ≤ 253) : (n.setWidth 8).toNat = n.toNat := by
  rw [BitVec.toNat_setWidth]
  omega

theorem issueEncode_tooLong {s : State} (isEnc isXfer : Bool) (h : 253 < (samplePlen s).toNat) :
    issueEncode isEnc isXfer s = setStatus 4#3 (clearEnc (chargeHost isEnc s)) := by
  unfold issueEncode
  rw [if_pos (plenTooLong_eq_true h)]; rfl

/-- The registers an issued encoder starts with (R141). -/
def issuedMachine (isEnc isXfer : Bool) (s : State) : EncMachine :=
  { s.em with
    state := .hdr0
    cmd := sampleCmdId s
    seq := if isEnc then sampleSeqIn s else s.seq
    plen := (samplePlen s).setWidth 8
    send := !isEnc && s.linkOpen
    nolink := !isEnc && !s.linkOpen
    xRecv := isXfer && s.linkOpen }

theorem issueEncode_started {s : State} (isEnc isXfer : Bool) (h : (samplePlen s).toNat ≤ 253) :
    issueEncode isEnc isXfer s =
      setBusy true (setEm (issuedMachine isEnc isXfer s) (clearEnc (chargeHost isEnc s))) := by
  unfold issueEncode
  rw [plenTooLong_eq_false h]
  exact if_neg Bool.false_ne_true

/-- The registers an issued encoder starts with, by the code of `OP`. -/
theorem issuedMachine_eq (op : BitVec 3) (s : State) :
    issuedMachine (op = 3#3) (op = 6#3) s =
      { s.em with
        state := .hdr0
        cmd := sampleCmdId s
        seq := if op = 3#3 then sampleSeqIn s else s.seq
        plen := (samplePlen s).setWidth 8
        send := op ≠ 3#3 ∧ s.linkOpen = true
        nolink := op ≠ 3#3 ∧ s.linkOpen = false
        xRecv := op = 6#3 ∧ s.linkOpen = true } := by
  simp [issuedMachine, Bool.decide_and]

theorem issueDecode_closed {s : State} (h : s.linkOpen = false) :
    issueDecode s = setStatus 1#3 (clearDec s) := by
  unfold issueDecode
  rw [if_neg (by simp [h])]; rfl

theorem issueDecode_open {s : State} (h : s.linkOpen = true) :
    issueDecode s = setBusy true (setDm { s.dm with state := .hdr0 } (clearDec s)) := by
  unfold issueDecode
  rw [if_pos h]

theorem step_of_presentSerial {s : State} {op : BitVec 3} {rest : List Input}
    (h : s.inputs = .presentSerial op :: rest) : step s = presentSerialStep op (dropInput rest s) := by
  unfold step
  rw [h]

theorem presentSerialStep_idle {s : State} (op : BitVec 3) (hb : s.busy = false) :
    presentSerialStep op s = .next (issueSerial op (setOp op s)) := by
  unfold presentSerialStep
  rw [hb]; rfl

theorem presentSerialStep_busy {s : State} (op : BitVec 3) (hb : s.busy = true) :
    presentSerialStep op s = .next s := by
  unfold presentSerialStep
  rw [hb]; rfl

/-- The issue of ENC, SEND and XFER (R141), with the code that says which. -/
theorem issueSerial_encode {op : BitVec 3} (h : op = 3#3 ∨ op = 4#3 ∨ op = 6#3) (s : State) :
    issueSerial op s = issueEncode (op = 3#3) (op = 6#3) s := by
  rcases h with rfl | rfl | rfl <;> rfl

/-- Settles O44: ignored while `BUSY = 1`; otherwise by the code, and for the codes that encode by `PLEN`. -/
theorem serialIssueFollowsItsRule : Obligations.SerialIssueFollowsItsRule := by
  unfold Obligations.SerialIssueFollowsItsRule
  intro s op rest hin s0 s1
  rw [step_of_presentSerial hin]
  refine ⟨fun hb => presentSerialStep_busy op hb, fun hb => ?_⟩
  have hissue : presentSerialStep op (dropInput rest s) = .next (issueSerial op s1) := presentSerialStep_idle op hb
  rw [hissue]
  have hidle : s1.busy = false := hb
  refine ⟨?_, ?_, ?_, fun hop => ?_, ?_⟩
  · rintro (rfl | rfl) <;> rfl
  · rintro rfl; exact (whenIdle_idle hidle).symm
  · rintro rfl; exact (whenIdle_idle hidle).symm
  · refine ⟨_, rfl, fun hp => ?_, fun hp => ?_⟩ <;> rw [issueSerial_encode hop]
    · rw [issueEncode_tooLong (s := s1) _ _ hp]; rfl
    · rw [issueEncode_started (s := s1) _ _ hp, issuedMachine_eq]
      exact ⟨setWidth_plen_toNat (n := samplePlen s) hp, rfl⟩
  · rintro rfl d
    refine ⟨fun hl => ?_, fun hl => ?_⟩
    · exact congrArg Host.Outcome.next (issueDecode_closed (s := s1) hl)
    · exact congrArg Host.Outcome.next (issueDecode_open (s := s1) hl)

end Sys2Proof.Machine

/-! # What the byte-serial machines have made so far (R142 to R154) -/

namespace Sys2Proof.Machine

/-! ## The bytes a buffer holds -/

theorem allListed_iff {m : Memory} {n : Nat} : allListed m n = true ↔ ∀ i < n, Memory.read m i ≠ none := by
  simp [allListed, Option.isSome_iff_ne_none]

theorem bufferBytes_succ (m : Memory) (n : Nat) :
    bufferBytes m (n + 1) = bufferBytes m n ++ (Memory.read m n).toList := by
  cases h : Memory.read m n <;> simp [bufferBytes, List.range_succ, h]

/-- A buffer that holds the bytes of a list at its head holds that list there. -/
theorem bufferBytes_eq {m : Memory} (bs : List Byte) (h : ∀ i < bs.length, Memory.read m i = bs[i]?) :
    bufferBytes m bs.length = bs := by
  induction bs using List.reverseRecOn with
  | nil => rfl
  | append_singleton bs b ih =>
    have hinit : ∀ i < bs.length, Memory.read m i = bs[i]? := fun i hi => by
      rw [h i (by simp; omega), List.getElem?_append_left hi]
    have hlast : Memory.read m bs.length = some b := by
      rw [h bs.length (by simp), List.getElem?_concat_length]
    rw [List.length_append, List.length_singleton, bufferBytes_succ, ih hinit, hlast]
    rfl

/-- Where all its bytes are listed, the head of a buffer is a list of that length, read index by index. -/
theorem bufferBytes_of_allListed {m : Memory} {n : Nat} (h : allListed m n = true) :
    (bufferBytes m n).length = n ∧ ∀ i < n, Memory.read m i = (bufferBytes m n)[i]? := by
  rw [allListed_iff] at h
  induction n with
  | zero => exact ⟨rfl, fun i hi => absurd hi (Nat.not_lt_zero i)⟩
  | succ n ih =>
    obtain ⟨hlen, hread⟩ := ih fun i hi => h i (by omega)
    obtain ⟨b, hb⟩ := Option.ne_none_iff_exists'.mp (h n (Nat.lt_succ_self n))
    have hsucc : bufferBytes m (n + 1) = bufferBytes m n ++ [b] := by rw [bufferBytes_succ, hb]; rfl
    rw [hsucc]
    refine ⟨by simp [hlen], fun i hi => ?_⟩
    rcases Nat.lt_succ_iff_lt_or_eq.mp hi with hlt | rfl
    · rw [hread i hlt, List.getElem?_append_left (by omega)]
    · rw [hb, List.getElem?_append_right (by omega), hlen, Nat.sub_self]
      rfl

/-- A buffer that holds the bytes of a list at its head has them all listed. -/
theorem allListed_of_read {m : Memory} {n : Nat} {bs : List Byte} (hn : n ≤ bs.length)
    (h : ∀ i < n, Memory.read m i = bs[i]?) : allListed m n = true := by
  rw [allListed_iff]
  intro i hi
  rw [h i hi, List.getElem?_eq_getElem (by omega)]
  exact Option.some_ne_none _

/-! ## The encoder (R142 to R144) -/

@[simp] theorem machinePayload_length (s : State) : (machinePayload s).length = s.em.plen.toNat := by
  simp [machinePayload]

/-- The frame the encoder was issued to make. -/
def encFrame (s : State) : List Byte := frameBytes s.em.cmd s.em.seq (machinePayload s)

/-- Its summed bytes. -/
def encBody (s : State) : List Byte := frameBody s.em.cmd s.em.seq (machinePayload s)

@[simp] theorem encFrame_length (s : State) : (encFrame s).length = s.em.plen.toNat + 8 := by simp [encFrame]

@[simp] theorem encBody_length (s : State) : (encBody s).length = s.em.plen.toNat + 3 := by simp [encBody]

/-- The summed bytes stand in the frame behind its two start bytes. -/
theorem encFrame_getElem?_body (s : State) {k : Nat} (h : k < s.em.plen.toNat + 3) :
    (encFrame s)[k + 2]? = (encBody s)[k]? := by
  have hk : k < (frameBody s.em.cmd s.em.seq (machinePayload s)).length := by simpa using h
  simp only [encFrame, encBody, frameBytes, List.getElem?_cons_succ, List.getElem?_append_left hk]

/-- The encoder is in a frame: `FLEN` is its position, the bytes so far are the frame's, and `e_sum` is the sum of those
that are summed. -/
structure Encoding (s : State) : Prop where
  active : s.em.state ≠ .idle
  plen : s.em.plen.toNat ≤ 253
  pos : s.enc.flen.toNat = encPos s.em
  idx : s.em.state = .pay → s.em.idx.toNat < s.em.plen.toNat
  bytes : ∀ i < s.enc.flen.toNat, Memory.read s.enc.fbuf i = (encFrame s)[i]?
  sum : 2 < s.enc.flen.toNat → s.em.sum = checksum ((encBody s).take (s.enc.flen.toNat - 2))

/-- The encoder's position is within the frame. -/
theorem encPos_lt {m : EncMachine} (h : m.state = .pay → m.idx.toNat < m.plen.toNat) : encPos m < m.plen.toNat + 8 := by
  unfold encPos
  cases hst : m.state
  case pay => have := h hst; simp only; omega
  all_goals simp only; omega

/-- There is room for the byte of the row. -/
theorem Encoding.room {s : State} (h : Encoding s) : s.enc.flen.toNat < 261 := by
  have := encPos_lt h.idx
  have := h.pos
  have := h.plen
  omega

/-- The row's byte is the frame's next byte. -/
theorem Encoding.rowByte_eq {s : State} (h : Encoding s) : (encFrame s)[s.enc.flen.toNat]? = some (rowByte s) := by
  have hpos := h.pos
  have htrailer := frameBytes_getElem?_trailer s.em.cmd s.em.seq (machinePayload s)
  rw [machinePayload_length] at htrailer
  unfold encPos at hpos
  unfold rowByte
  cases hst : s.em.state <;> rw [hst] at hpos <;> simp only at hpos
  case idle => exact absurd hst h.active
  case hdr0 | hdr1 | cmd | seq => rw [hpos]; rfl
  case len =>
    have hlen : lenByte (machinePayload s) = s.em.plen + 2#8 := by
      apply BitVec.eq_of_toNat_eq
      have := h.plen
      rw [lenByte_toNat (by simpa using h.plen), machinePayload_length]
      bv_omega
    rw [hpos, ← hlen]; rfl
  case pay =>
    have hidx := h.idx hst
    rw [hpos, show 5 + s.em.idx.toNat = s.em.idx.toNat + 3 + 2 by omega, encFrame_getElem?_body s (by omega)]
    simp [encBody, frameBody, machinePayload, hidx]
  case chk =>
    have hsum := h.sum (by omega)
    rw [hpos, show 5 + s.em.plen.toNat - 2 = s.em.plen.toNat + 3 by omega, ← encBody_length, List.take_length] at hsum
    rw [hpos, hsum, show 5 + s.em.plen.toNat = s.em.plen.toNat + 5 + 0 by omega]
    exact htrailer 0
  case fin0 =>
    rw [hpos, show 6 + s.em.plen.toNat = s.em.plen.toNat + 5 + 1 by omega]
    exact htrailer 1
  case fin1 =>
    rw [hpos, show 7 + s.em.plen.toNat = s.em.plen.toNat + 5 + 2 by omega]
    exact htrailer 2

/-- With the row's byte, the bytes so far are still the frame's. -/
theorem Encoding.emitted_bytes {s : State} (h : Encoding s) :
    ∀ i < s.enc.flen.toNat + 1, Memory.read (emitted (rowByte s) s).enc.fbuf i = (encFrame s)[i]? := by
  intro i hi
  rw [emitted_read_fbuf]
  split
  · next he => rw [he, h.rowByte_eq]
  · next hne => exact h.bytes i (by omega)

/-- Every row but E_END1 moves the position by one. -/
theorem encPos_rowMachine {m : EncMachine} (b : Byte) (hi : m.state ≠ .idle) (hf : m.state ≠ .fin1)
    (hplen : m.plen.toNat ≤ 253) (hidx : m.state = .pay → m.idx.toNat < m.plen.toNat) :
    encPos (rowMachine b m) = encPos m + 1 ∧
      ((rowMachine b m).state = .pay → (rowMachine b m).idx.toNat < m.plen.toNat) ∧
      (rowMachine b m).state ≠ .idle := by
  unfold rowMachine
  cases hst : m.state
  case idle => exact absurd hst hi
  case fin1 => exact absurd hst hf
  case seq =>
    by_cases hp : 0 < m.plen.toNat <;> simp [encPos, hst, hp]
    omega
  case pay =>
    have hlt := hidx hst
    have hsucc : (m.idx + 1#8).toNat = m.idx.toNat + 1 := by bv_omega
    simp only [hsucc]
    by_cases hp : m.idx.toNat + 1 < m.plen.toNat <;> simp [encPos, hst, hp, hsucc] <;> omega
  case chk => simp [encPos, hst]; omega
  case fin0 => simp [encPos, hst]; omega
  all_goals simp [encPos, hst]

/-- What the frame is made of stays. -/
theorem rowStep_frame (s : State) :
    encFrame (rowStep s) = encFrame s ∧ encBody (rowStep s) = encBody s ∧ (rowStep s).em.plen = s.em.plen := by
  obtain ⟨hcmd, hseq, hplen, -, -, -⟩ := rowMachine_keeps (rowByte s) s.em
  have hpay : machinePayload (rowStep s) = machinePayload s := by
    unfold machinePayload
    rw [show (rowStep s).em.plen = s.em.plen from hplen]
    rfl
  refine ⟨?_, ?_, hplen⟩
  · unfold encFrame
    rw [hpay]
    exact congrArg₂ (fun c q => frameBytes c q _) hcmd hseq
  · unfold encBody
    rw [hpay]
    exact congrArg₂ (fun c q => frameBody c q _) hcmd hseq

/-- The next summed byte adds to the checksum. -/
theorem checksum_take_succ {bs : List Byte} {k : Nat} {b : Byte} (h : bs[k]? = some b) :
    checksum (bs.take (k + 1)) = checksum (bs.take k) + b := by
  rw [List.take_add_one, h]
  exact checksum_append_singleton _ b

/-- The row updates `e_sum` as the position moves on. -/
theorem Encoding.sum_row {s : State} (h : Encoding s) (hf : s.em.state ≠ .fin1) (h2 : 2 < s.enc.flen.toNat + 1) :
    (rowMachine (rowByte s) s.em).sum = checksum ((encBody s).take (s.enc.flen.toNat + 1 - 2)) := by
  obtain ⟨k, hk⟩ : ∃ k, s.enc.flen.toNat = k + 2 := ⟨s.enc.flen.toNat - 2, by omega⟩
  have hpos := h.pos
  have hbyte := h.rowByte_eq
  rw [hk, show k + 2 + 1 - 2 = k + 1 by omega]
  rw [hk] at hpos hbyte
  have hnext (hlt : k < s.em.plen.toNat + 3) : (encBody s)[k]? = some (rowByte s) := by
    rw [← encFrame_getElem?_body s hlt, hbyte]
  have hold (hk0 : 0 < k) : s.em.sum = checksum ((encBody s).take k) := by
    have := h.sum (by omega)
    rwa [hk, show k + 2 - 2 = k by omega] at this
  have hadds (hlt : k < s.em.plen.toNat + 3) (hk0 : 0 < k) :
      s.em.sum + rowByte s = checksum ((encBody s).take (k + 1)) := by
    rw [checksum_take_succ (hnext hlt), hold hk0]
  have hstays (hge : s.em.plen.toNat + 3 ≤ k) : s.em.sum = checksum ((encBody s).take (k + 1)) := by
    rw [List.take_of_length_le (by simp; omega), hold (by omega), List.take_of_length_le (by simp; omega)]
  unfold encPos at hpos
  unfold rowMachine
  cases hst : s.em.state <;> rw [hst] at hpos <;> simp only at hpos ⊢
  case idle => exact absurd hst h.active
  case fin1 => exact absurd hst hf
  case hdr0 | hdr1 => omega
  case len =>
    obtain rfl : k = 0 := by omega
    rw [checksum_take_succ (hnext (by omega)), List.take_zero]
    exact (BitVec.zero_add _).symm
  case cmd | seq => exact hadds (by omega) (by omega)
  case pay =>
    have := h.idx hst
    exact hadds (by omega) (by omega)
  case chk | fin0 => exact hstays (by omega)

/-- Every row but E_END1 leaves the encoder in the same frame, one byte further. -/
theorem Encoding.rowStep {s : State} (h : Encoding s) (hf : s.em.state ≠ .fin1) : Encoding (rowStep s) := by
  obtain ⟨hpos, hidx, hactive⟩ := encPos_rowMachine (rowByte s) h.active hf h.plen h.idx
  obtain ⟨hframe, hbody, hplen⟩ := rowStep_frame s
  have hflen : (Machine.rowStep s).enc.flen.toNat = s.enc.flen.toNat + 1 := emitted_flen_toNat h.room _
  exact
    { active := hactive
      plen := by rw [hplen]; exact h.plen
      pos := by rw [hflen, h.pos]; exact hpos.symm
      idx := fun hp => by rw [hplen]; exact hidx hp
      bytes := by rw [hflen, hframe]; exact h.emitted_bytes
      sum := by rw [hflen, hbody]; exact h.sum_row hf }

/-- At E_END1 the whole frame stands in `FBUF`. -/
theorem Encoding.done {s : State} (h : Encoding s) (hf : s.em.state = .fin1) :
    (emitted 0x0A#8 s).enc.flen.toNat = s.em.plen.toNat + 8 ∧
      ∀ i < s.em.plen.toNat + 8, Memory.read (emitted 0x0A#8 s).enc.fbuf i = (encFrame s)[i]? := by
  have hpos : s.enc.flen.toNat = 7 + s.em.plen.toNat := by rw [h.pos]; simp [encPos, hf]
  have hbyte : rowByte s = 0x0A#8 := by simp [rowByte, hf]
  have hbytes := h.emitted_bytes
  rw [hbyte, hpos, show 7 + s.em.plen.toNat + 1 = s.em.plen.toNat + 8 by omega] at hbytes
  exact ⟨by rw [emitted_flen_toNat h.room, hpos]; omega, hbytes⟩

/-! ## The decoder in the body (R151, R152) -/

/-- The decoder is in the body of a frame and has stored the bytes `bs` of it: the counts and what the validator has
computed so far are theirs. -/
structure Decoding (s : State) (bs : List Byte) : Prop where
  body : s.dm.state = .body
  cnt : s.dec.rxCnt.toNat = bs.length
  rem : bs.length + s.dm.rem.toNat = s.dec.rxLen.toNat + 3
  more : 0 < s.dm.rem.toNat
  bytes : ∀ i < bs.length, Memory.read s.dec.rxbuf i = bs[i]?
  sum : s.dm.sum = checksum (s.dec.rxLen :: bs.take s.dec.rxLen.toNat)
  chk : s.dec.rxLen.toNat < bs.length → s.dec.flags.chkOk = (validate ⟨s.dec.rxLen, bs⟩).chkOk
  e0 : s.dec.rxLen.toNat + 1 < bs.length → s.dm.e0 = (bs[s.dec.rxLen.toNat + 1]? == some Config.endByte0)

/-- There is room for the next byte. -/
theorem Decoding.room {s : State} {bs : List Byte} (h : Decoding s bs) : s.dec.rxCnt.toNat < 258 := by
  have := s.dec.rxLen.isLt
  have := h.rem
  have := h.more
  rw [h.cnt]
  omega

theorem validate_chkOk (len : Byte) (bs : List Byte) :
    (validate ⟨len, bs⟩).chkOk = (bs[len.toNat]? == some (checksum (len :: bs.take len.toNat))) := rfl

theorem validate_endOk (len : Byte) (bs : List Byte) :
    (validate ⟨len, bs⟩).endOk =
      (bs[len.toNat + 1]? == some Config.endByte0 && bs[len.toNat + 2]? == some Config.endByte1) := rfl

section DecodingStep

variable {s : State} {bs : List Byte} (h : Decoding s bs) (b : Byte)
include h

theorem Decoding.stored_cnt : (stored b s).dec.rxCnt.toNat = (bs ++ [b]).length := by
  rw [stored_rxCnt_toNat b s h.room, h.cnt, List.length_append, List.length_singleton]

theorem Decoding.stored_bytes : ∀ i < (bs ++ [b]).length, Memory.read (stored b s).dec.rxbuf i = (bs ++ [b])[i]? := by
  intro i hi
  rw [stored_read_rxbuf, h.cnt]
  split
  · next he => rw [he, List.getElem?_concat_length]
  · next hne =>
    have hlt : i < bs.length := by simp only [List.length_append, List.length_singleton] at hi; omega
    rw [List.getElem?_append_left hlt, h.bytes i hlt]

/-- The byte before the checksum adds to the sum, a later one does not. -/
theorem Decoding.stored_sum :
    (stored b s).dm.sum = checksum (s.dec.rxLen :: (bs ++ [b]).take s.dec.rxLen.toNat) := by
  rw [stored_dm, h.cnt]
  dsimp only
  split
  · next hlt =>
    rw [h.sum, List.take_of_length_le (by omega), List.take_of_length_le (by simp; omega), ← List.cons_append,
      checksum_append_singleton]
  · next hge => rw [h.sum, List.take_append_of_le_length (by omega)]

theorem Decoding.stored_chkOk (hn : s.dec.rxLen.toNat < (bs ++ [b]).length) :
    (stored b s).dec.flags.chkOk = (validate ⟨s.dec.rxLen, bs ++ [b]⟩).chkOk := by
  rw [List.length_append, List.length_singleton] at hn
  rw [stored_flags, h.cnt, validate_chkOk]
  dsimp only
  split
  · next he =>
    rw [h.sum, ← he, List.getElem?_concat_length, List.take_left, List.take_length]
    rfl
  · next hne =>
    rw [h.chk (by omega), validate_chkOk, List.getElem?_append_left (by omega),
      List.take_append_of_le_length (by omega)]

theorem Decoding.stored_e0 (hn : s.dec.rxLen.toNat + 1 < (bs ++ [b]).length) :
    (stored b s).dm.e0 = ((bs ++ [b])[s.dec.rxLen.toNat + 1]? == some Config.endByte0) := by
  rw [List.length_append, List.length_singleton] at hn
  rw [stored_dm, h.cnt]
  dsimp only
  split
  · next he => rw [← he, List.getElem?_concat_length]; rfl
  · next hne => rw [h.e0 (by omega), List.getElem?_append_left (by omega)]

/-- A byte that is not the last one leaves the decoder in the same frame, one byte further. -/
theorem Decoding.stored (hmore : 1 < s.dm.rem.toNat) : Decoding (Machine.stored b s) (bs ++ [b]) := by
  have hleft := stored_rem_toNat b s h.more
  have hrem := h.rem
  exact
    { body := by rw [stored_dm]; exact h.body
      cnt := h.stored_cnt b
      rem := by
        rw [show (Machine.stored b s).dec.rxLen = s.dec.rxLen from rfl, List.length_append, List.length_singleton]
        omega
      more := by omega
      bytes := h.stored_bytes b
      sum := h.stored_sum b
      chk := h.stored_chkOk b
      e0 := h.stored_e0 b }

/-- With the last byte the flags are the validator's (R104, R154). -/
theorem Decoding.done (hlast : s.dm.rem.toNat = 1) :
    (bs ++ [b]).length = s.dec.rxLen.toNat + 3 ∧
      validateDone s.dec.rxLen (Machine.stored b s).dec.flags = validate ⟨s.dec.rxLen, bs ++ [b]⟩ := by
  have hlen : bs.length = s.dec.rxLen.toNat + 2 := by have := h.rem; omega
  refine ⟨by rw [List.length_append, List.length_singleton]; omega, ?_⟩
  have hchk := h.stored_chkOk b (by rw [List.length_append, List.length_singleton]; omega)
  have hend : (Machine.stored b s).dec.flags.endOk = (validate ⟨s.dec.rxLen, bs ++ [b]⟩).endOk := by
    rw [stored_flags, h.cnt, validate_endOk]
    dsimp only
    rw [if_pos hlen, h.e0 (by omega), List.getElem?_append_left (by omega), ← hlen, List.getElem?_concat_length]
    rfl
  simp only [validateDone, hchk, hend]
  rfl

end DecodingStep

/-- The length byte starts the body with nothing stored. -/
theorem Decoding.start {s : State} {b : Byte} (hcnt : s.dec.rxCnt.toNat = 0) : Decoding (lenRow b s) [] :=
  have hrem := lenRow_rem_toNat b s
  { body := rfl
    cnt := hcnt
    rem := by rw [List.length_nil, Nat.zero_add]; exact hrem
    more := by omega
    bytes := fun i hi => absurd hi (Nat.not_lt_zero i)
    sum := by rw [List.take_nil]; exact (checksum_singleton b).symm
    chk := fun h => absurd h (Nat.not_lt_zero _)
    e0 := fun h => absurd h (Nat.not_lt_zero _) }

end Sys2Proof.Machine

/-! # The layout (10_state.md, R140): what it says in each situation of the block -/

namespace Sys2Proof.Machine

/-! ## The registers, whatever the machines do -/

/-- The encoder result registers are within their sizes, and the bytes `FLEN` promises are there (R16, R49). -/
structure EncFits (e : EncoderRegs) : Prop where
  flen : e.flen.toNat ≤ 261
  wf : Memory.wf Config.fbufSize e.fbuf = true
  listed : allListed e.fbuf e.flen.toNat = true

/-- The decoder result registers are within their sizes, and the bytes `RX_CNT` promises are there (R17, R49). -/
structure DecFits (d : DecoderRegs) : Prop where
  cnt : d.rxCnt.toNat ≤ 258
  wf : Memory.wf Config.rxbufSize d.rxbuf = true
  listed : allListed d.rxbuf d.rxCnt.toNat = true

/-- The part of the layout that speaks of no machine. -/
structure Fits (s : State) : Prop where
  status : s.status.toNat ≤ 4
  txbuf : Memory.wf Config.txbufSize s.opr.txbuf = true
  enc : EncFits s.enc
  dec : DecFits s.dec

/-- The decoder result registers hold no frame, or all bytes of one (R17). -/
def Rested (d : DecoderRegs) : Prop := d = noFrame d.rxbuf ∨ d.rxCnt.toNat = d.rxLen.toNat + 3

/-- The encoder's registers agree with its position, and what it was issued with is possible (R142 to R144). -/
structure EncPlaced (s : State) : Prop where
  plen : s.em.plen.toNat ≤ 253
  pos : s.enc.flen.toNat = encPos s.em
  idx : s.em.state = .pay → s.em.idx.toNat < s.em.plen.toNat
  send : s.em.send = true → s.linkOpen = true
  xRecv : s.em.xRecv = true → s.em.send = true
  nolink : s.em.nolink = true → s.em.send = false

/-- The decoder's registers agree with the part of the frame it is in (R150, R151). -/
def DecPlaced (s : State) : Prop :=
  if s.dm.state = .body then 0 < s.dm.rem.toNat ∧ s.dec.rxCnt.toNat + s.dm.rem.toNat = s.dec.rxLen.toNat + 3
  else s.dec.rxCnt.toNat = 0

theorem fits_iff (s : State) :
    Fits s ↔ s.status.toNat ≤ 4 ∧ s.enc.flen.toNat ≤ 261 ∧ s.dec.rxCnt.toNat ≤ 258 ∧
      Memory.wf Config.txbufSize s.opr.txbuf = true ∧ Memory.wf Config.fbufSize s.enc.fbuf = true ∧
      Memory.wf Config.rxbufSize s.dec.rxbuf = true ∧ allListed s.enc.fbuf s.enc.flen.toNat = true ∧
      allListed s.dec.rxbuf s.dec.rxCnt.toNat = true :=
  ⟨fun h => ⟨h.status, h.enc.flen, h.dec.cnt, h.txbuf, h.enc.wf, h.dec.wf, h.enc.listed, h.dec.listed⟩,
    fun ⟨h1, h2, h3, h4, h5, h6, h7, h8⟩ => ⟨h1, h4, ⟨h2, h5, h7⟩, ⟨h3, h6, h8⟩⟩⟩

/-! ## The layout in each situation -/

/-- Between operations both machines are idle and the decoder's registers are at rest. -/
theorem layout_iff_idle {s : State} (hb : s.busy = false) :
    s.layout = true ↔ s.em.state = .idle ∧ s.dm.state = .idle ∧ Rested s.dec ∧ Fits s := by
  rw [fits_iff]
  by_cases he : s.em.state = .idle <;> by_cases hd : s.dm.state = .idle <;>
    simp [State.layout, hb, encActive, decActive, encLayout, decLayout, decResult, he, hd, Rested, and_assoc]

/-- While the encoder is in a frame. -/
theorem layout_iff_enc {s : State} (he : s.em.state ≠ .idle) :
    s.layout = true ↔ s.busy = true ∧ s.dm.state = .idle ∧ EncPlaced s ∧ Rested s.dec ∧ Fits s := by
  have hplaced : EncPlaced s ↔ s.em.plen.toNat ≤ 253 ∧ s.enc.flen.toNat = encPos s.em ∧
      (s.em.state = .pay → s.em.idx.toNat < s.em.plen.toNat) ∧ (s.em.send = true → s.linkOpen = true) ∧
      (s.em.xRecv = true → s.em.send = true) ∧ (s.em.nolink = true → s.em.send = false) :=
    ⟨fun ⟨h1, h2, h3, h4, h5, h6⟩ => ⟨h1, h2, h3, h4, h5, h6⟩, fun ⟨h1, h2, h3, h4, h5, h6⟩ => ⟨h1, h2, h3, h4, h5, h6⟩⟩
  have hactive : (s.em.state != .idle) = true := bne_iff_ne.mpr he
  rw [fits_iff, hplaced]
  by_cases hd : s.dm.state = .idle <;>
    simp [State.layout, encActive, decActive, encLayout, decLayout, decResult, hactive, hd, Rested, and_assoc,
      imp_iff_not_or]

/-- While the decoder is in a frame; where its next item is known to be `Never` only its position is kept. -/
theorem layout_iff_dec {s : State} (he : s.em.state = .idle) (hd : s.dm.state ≠ .idle) :
    s.layout = true ↔
      s.busy = true ∧ s.linkOpen = true ∧ (nextIsNever s.rx = true ∨ DecPlaced s) ∧ Fits s := by
  have hactive : (s.dm.state != .idle) = true := bne_iff_ne.mpr hd
  have hbody : (DState.body != .idle) = true := rfl
  rw [fits_iff]
  by_cases hb : s.dm.state = .body <;>
    simp [State.layout, encActive, decActive, encLayout, decLayout, decResult, he, hactive, hb, hbody, DecPlaced,
      and_assoc]

section Intro

variable {s : State} (hf : Fits s)
include hf

theorem layout_of_idle (hb : s.busy = false) (he : s.em.state = .idle) (hd : s.dm.state = .idle)
    (hrest : Rested s.dec) : s.layout = true := (layout_iff_idle hb).mpr ⟨he, hd, hrest, hf⟩

theorem layout_of_enc (hb : s.busy = true) (he : s.em.state ≠ .idle) (hd : s.dm.state = .idle) (hp : EncPlaced s)
    (hrest : Rested s.dec) : s.layout = true := (layout_iff_enc he).mpr ⟨hb, hd, hp, hrest, hf⟩

theorem layout_of_dec (hb : s.busy = true) (he : s.em.state = .idle) (hd : s.dm.state ≠ .idle)
    (hl : s.linkOpen = true) (hp : nextIsNever s.rx = true ∨ DecPlaced s) : s.layout = true :=
  (layout_iff_dec he hd).mpr ⟨hb, hl, hp, hf⟩

end Intro

/-! ## The operations on the result registers keep them within their sizes -/

theorem EncFits.cleared {e : EncoderRegs} (h : EncFits e) : EncFits { e with flen := 0#9 } := ⟨by simp, h.wf, rfl⟩

theorem EncFits.empty : EncFits { fbuf := [], flen := 0#9 } := ⟨by simp, rfl, rfl⟩

theorem EncFits.ofBytes {f : List Byte} (h : f.length ≤ 261) :
    EncFits { fbuf := Memory.ofBytes 0 f, flen := BitVec.ofNat 9 f.length } := by
  have hlen : (BitVec.ofNat 9 f.length).toNat = f.length := by rw [BitVec.toNat_ofNat]; omega
  exact ⟨by dsimp only; omega, Memory.wf_ofBytes h, allListed_of_read hlen.le fun i _ => Memory.read_ofBytes_zero f i⟩

theorem allListed_write_succ {m : Memory} {n : Nat} (b : Byte) (h : allListed m n = true) :
    allListed (Memory.write m n b) (n + 1) = true := by
  rw [allListed_iff] at h ⊢
  intro i hi
  rw [Memory.read_write]
  split
  · exact Option.some_ne_none b
  · exact h i (by omega)

theorem EncFits.emitted {s : State} (b : Byte) (h : EncFits s.enc) (hroom : s.enc.flen.toNat < 261) :
    EncFits (emitted b s).enc := by
  have hflen := emitted_flen_toNat hroom b
  exact ⟨by omega, Memory.wf_write hroom h.wf, by rw [hflen]; exact allListed_write_succ b h.listed⟩

theorem DecFits.noFrame {m : Memory} (h : Memory.wf Config.rxbufSize m = true) : DecFits (noFrame m) :=
  ⟨by simp [Machine.noFrame], h, rfl⟩

theorem Rested.noFrame (m : Memory) : Rested (noFrame m) := .inl rfl

/-- The decoder result registers that hold a received frame. -/
abbrev receivedRegs (f : Frame) : DecoderRegs :=
  ⟨f.len, Memory.ofBytes 0 f.trail, BitVec.ofNat 9 f.trail.length, validate f⟩

theorem receivedRegs_cnt {f : Frame} (h : f.trail.length = f.len.toNat + 3) :
    (receivedRegs f).rxCnt.toNat = f.trail.length := by
  have := f.len.isLt
  dsimp only
  rw [BitVec.toNat_ofNat]
  omega

theorem DecFits.received {f : Frame} (h : f.trail.length = f.len.toNat + 3) : DecFits (receivedRegs f) := by
  have := f.len.isLt
  have hlen := receivedRegs_cnt h
  have hfits : f.trail.length ≤ 258 := by omega
  exact ⟨by omega, Memory.wf_ofBytes hfits, allListed_of_read hlen.le fun i _ => Memory.read_ofBytes_zero f.trail i⟩

theorem Rested.received {f : Frame} (h : f.trail.length = f.len.toNat + 3) : Rested (receivedRegs f) :=
  .inr ((receivedRegs_cnt h).trans h)

theorem DecFits.stored {s : State} (b : Byte) (h : DecFits s.dec) (hroom : s.dec.rxCnt.toNat < 258) :
    DecFits (stored b s).dec := by
  have hcnt := stored_rxCnt_toNat b s hroom
  exact ⟨by omega, Memory.wf_write hroom h.wf, by rw [hcnt]; exact allListed_write_succ b h.listed⟩

/-- A valid frame fits `FBUF` (R62). -/
theorem length_of_validFrame {f : List Byte} (h : validFrame f = true) : f.length ≤ 261 := by
  unfold validFrame at h
  split at h
  · next len rest =>
    have := len.isLt
    simp only [Bool.and_eq_true, decide_eq_true_eq] at h
    omega
  · cases h

/-! # What a step can do, said once for the invariants -/

/-! ## Between operations -/

/-- `t` comes from `s` by updates that a block between operations makes: neither machine moves. -/
inductive Between (s : State) : State → Prop where
  | refl : Between s s
  | status {t : State} (v : BitVec 3) (hv : v.toNat ≤ 4) (h : Between s t) : Between s (setStatus v t)
  | link {t : State} (b : Bool) (h : Between s t) : Between s (setLink b t)
  | answer {t : State} (h : Between s t) : Between s (drawConnect t).2
  | seq {t : State} (h : Between s t) : Between s (bumpSeq t)
  | rx {t : State} (r : RxStream) (h : Between s t) : Between s (setRx r t)
  | charge {t : State} (n : Bool) (h : Between s t) : Between s (chargeHost n t)
  | operands {t : State} (o : OperandRegs)
      (ho : Memory.wf Config.txbufSize t.opr.txbuf = true → Memory.wf Config.txbufSize o.txbuf = true)
      (h : Between s t) : Between s (setOpr o t)
  | noFrameBuilt {t : State} (k : ErrorKind) (h : Between s t) : Between s (storeFrame (.error k) t)
  | encCleared {t : State} (h : Between s t) : Between s (clearEnc t)
  | built {t : State} {f : List Byte} (hf : validFrame f = true) (h : Between s t) : Between s (storeFrame (.ok f) t)
  | sent {t : State} {f : List Byte} (hf : validFrame f = true) (h : Between s t) : Between s (txWrite f t)
  | noFrameReceived {t : State} {m : Memory} (hm : m = [] ∨ m = t.dec.rxbuf) (h : Between s t) :
      Between s (setDec (noFrame m) t)
  | received {t : State} {f : Frame} (hf : f.trail.length = f.len.toNat + 3) (h : Between s t) :
      Between s (setDec (receivedRegs f) t)

theorem Between.machines {s t : State} (h : Between s t) : t.busy = s.busy ∧ t.em = s.em ∧ t.dm = s.dm := by
  induction h with
  | refl => exact ⟨rfl, rfl, rfl⟩
  | answer _ ih => simpa using ih
  | _ => assumption

theorem valid_sampled {s : State} (h : (samplePlen s).toNat ≤ 253) (c q : Byte) :
    validFrame (frameBytes c q (samplePayload s)) = true :=
  validFrame_frameBytes c q (by rw [samplePayload_length]; exact h)

section BetweenOps

variable {s t : State} (h : Between s t)
include h

theorem Between.reservedOp : Between s (reservedOp t) := h.status 4#3 (by decide)

theorem Between.connectOp : Between s (connectOp t) := by
  rcases t.linkOpen.eq_false_or_eq_true with hl | hl
  · rw [connectOp_open hl]; exact h.status 0#3 (by decide)
  · rw [connectOp_closed hl]
    exact (h.answer.link _).status _ (by split <;> decide)

theorem Between.disconnectOp : Between s (disconnectOp t) := (h.link false).status 0#3 (by decide)

theorem Between.encOp : Between s (encOp t) := by
  rcases Nat.lt_or_ge 253 (samplePlen t).toNat with hp | hp
  · rw [encOp_tooLong hp]; exact ((h.charge true).noFrameBuilt _).status 4#3 (by decide)
  · rw [encOp_built hp]; exact ((h.charge true).built (valid_sampled hp _ _)).status 0#3 (by decide)

theorem Between.afterSend (hp : (samplePlen t).toNat ≤ 253) : Between s (afterSend t) :=
  (((h.charge false).built (valid_sampled hp _ _)).sent (valid_sampled hp _ _)).seq

theorem Between.sendOp : Between s (sendOp t) := by
  rcases Nat.lt_or_ge 253 (samplePlen t).toNat with hp | hp
  · rw [sendOp_tooLong hp]; exact ((h.charge false).noFrameBuilt _).status 4#3 (by decide)
  · rcases t.linkOpen.eq_false_or_eq_true with hl | hl
    · rw [sendOp_sent hp hl]; exact (h.afterSend hp).status 0#3 (by decide)
    · rw [sendOp_closed hp hl]
      exact ((h.charge false).built (valid_sampled hp _ _)).status 1#3 (by decide)

theorem Between.setOp (op : BitVec 3) : Between s (setOp op t) := h.operands _ id

theorem Between.deliver (items : List RxItem) : Between s (deliver items t) := h.rx _

/-- A command line's payload fits `TXBUF` where it is stored (R72). -/
theorem Between.loadCommand (c : Byte) (p : List Byte) : Between s (loadCommand c p t) := by
  refine h.operands _ fun hwf => ?_
  dsimp only
  split
  · next hp => exact Memory.wf_writeBytes p (by omega) hwf
  · exact hwf

theorem Between.loadSeqIn (q : Byte) : Between s (loadSeqIn q t) := h.operands _ id

/-- A host write stays within `TXBUF` (R49). -/
theorem Between.writeOperand {w : OperandWrite} {u : State} (hw : writeOperand w t = .next u) : Between s u := by
  cases w with
  | cmdId b => cases hw; exact h.operands _ id
  | seqIn b => cases hw; exact h.operands _ id
  | plen n => cases hw; exact h.operands _ id
  | txbuf i b =>
    unfold Machine.writeOperand at hw
    dsimp only at hw
    split at hw
    · next hi => cases hw; exact h.operands _ fun hwf => Memory.wf_write hi hwf
    · cases hw

end BetweenOps

/-! ## What every step can do -/

/-- `t` differs from `s` in what stands outside the block only: inputs, what was read, answers and items the transport
fixes behind those it has fixed. -/
structure SameInside (s t : State) : Prop where
  same : t = { s with
    rx := t.rx
    env := { s.env with connectAhead := t.env.connectAhead }
    inputs := t.inputs
    observed := t.observed }
  never : nextIsNever s.rx = true → nextIsNever t.rx = true

/-- An encoder that was just issued (R141). -/
structure Issued (m : EncMachine) (linkOpen : Bool) : Prop where
  state : m.state = .hdr0
  plen : m.plen.toNat ≤ 253
  send : m.send = true → linkOpen = true
  xRecv : m.xRecv = true → m.send = true
  nolink : m.nolink = true → m.send = false

theorem SameInside.refl (s : State) : SameInside s s := ⟨rfl, id⟩

theorem SameInside.deliver (items : List RxItem) (s : State) : SameInside s (deliver items s) := by
  refine ⟨rfl, fun h => ?_⟩
  simp only [nextIsNever, beq_iff_eq, deliver_rx] at h ⊢
  rw [List.head?_append, h]
  rfl

/-- What a step takes and what carries it out. -/
inductive StepTakes (s : State) : State → Prop where
  | reset (rest : List Input) (hin : s.inputs = .reset :: rest) : StepTakes s (resetBy (dropInput rest s))
  | present {t : State} (w : HostWord) (rest : List Input) (hin : s.inputs = .present w :: rest)
      (h : presentStep w (dropInput rest s) = .next t) : StepTakes s t
  | presentSerial (op : BitVec 3) (rest : List Input) (hin : s.inputs = .presentSerial op :: rest)
      (hb : s.busy = false) : StepTakes s (issueSerial op (setOp op (dropInput rest s)))
  | write {t : State} (w : OperandWrite) (rest : List Input) (hb : s.busy = false)
      (h : writeOperand w (dropInput rest s) = .next t) : StepTakes s t
  | machine {t : State} (rest : List Input) (hb : s.busy = true) (h : machineStep (dropInput rest s) = .next t) :
      StepTakes s t
  | outside {t : State} (rest : List Input) (h : SameInside (dropInput rest s) t) : StepTakes s t

/-- The cases of a step that goes on, one for each input and one for none. -/
theorem step_takes {s t : State} (h : step s = .next t) : StepTakes s t := by
  unfold step at h
  split at h
  case h_1 =>
    unfold idleStep at h
    split at h
    · next hb => exact .machine s.inputs hb h
    · cases h; exact .outside s.inputs (.refl _)
  case h_2 rest _ =>
    unfold waitStep at h
    split at h
    · next hb => exact .machine s.inputs hb h
    · cases h; exact .outside rest (.refl _)
  case h_3 rest _ =>
    rcases elapseStep_next h with ⟨hb, hm⟩ | ⟨hb, hm, rfl⟩ | ⟨-, rfl⟩
    · exact .machine rest hb hm
    · obtain ⟨-, -, -, hnever⟩ := hung_iff.mp (hung_of_never hb hm).1
      exact .outside rest ⟨rfl, fun _ => hnever⟩
    · exact .outside rest (.refl _)
  case h_4 w rest hin => exact .present w rest hin h
  case h_5 op rest hin =>
    cases hb : s.busy with
    | true => rw [presentSerialStep_busy (s := dropInput rest s) op hb] at h; cases h; exact .outside rest (.refl _)
    | false => rw [presentSerialStep_idle (s := dropInput rest s) op hb] at h; cases h; exact .presentSerial op rest hin hb
  case h_6 w rest _ =>
    unfold writeStep at h
    split at h
    · cases h
    · next hb => exact .write w rest (Bool.eq_false_of_not_eq_true hb) h
  case h_7 r rest _ =>
    unfold hostRead at h
    split at h
    · cases h
    · split at h
      · cases h; exact .outside rest ⟨rfl, id⟩
      · cases h
  case h_8 rest hin => cases h; exact .reset rest hin
  case h_9 items rest _ => cases h; exact .outside rest (.deliver items _)
  case h_10 ok rest _ => cases h; exact .outside rest ⟨rfl, id⟩

/-- What a step can do to the block once its input is taken. -/
inductive Effect (s : State) : State → Prop where
  | outside {t : State} (h : SameInside s t) : Effect s t
  | reset : Effect s (resetBy s)
  | between {t : State} (hb : s.busy = false) (h : Between s t) : Effect s t
  | hangs {t : State} {d : DState} (hb : s.busy = false) (h : Between s t) (hl : t.linkOpen = true) (hd : d ≠ .idle)
      (hn : nextIsNever t.rx = true) : Effect s (hangAt d t)
  | startsEncoder {t : State} {m : EncMachine} (hb : s.busy = false) (h : Between s t) (hm : Issued m t.linkOpen) :
      Effect s (setBusy true (setEm m (clearEnc t)))
  | startsDecoder {t : State} (hb : s.busy = false) (h : Between s t) (hl : t.linkOpen = true) :
      Effect s (setBusy true (setDm { t.dm with state := .hdr0 } (clearDec t)))
  | encodes {t : State} (he : s.em.state ≠ .idle) (h : encStep s = .next t) : Effect s t
  | decodes {t : State} (he : s.em.state = .idle) (hd : s.dm.state ≠ .idle) (h : decStep s = .next t) : Effect s t

theorem effect_recvOp {s t : State} (hb : s.busy = false) (h : Between s t) : Effect s (recvOp t) := by
  rcases t.linkOpen.eq_false_or_eq_true with hl | hl
  · unfold recvOp
    rw [if_pos hl]
    rcases hd : t.rx.decode with ⟨o, r⟩
    rcases RxStream.decode_cases hd with ⟨f, rfl, hf, -⟩ | ⟨rfl, -⟩ | ⟨rfl, -⟩ | ⟨d, rfl, hne, hn⟩
    · exact .between hb (((h.rx r).received hf).status 0#3 (by decide))
    · exact .between hb (((h.rx r).noFrameReceived (.inl rfl)).status 2#3 (by decide))
    · exact .between hb (((h.rx r).noFrameReceived (.inl rfl)).status 3#3 (by decide))
    · exact .hangs hb (h.rx r) hl hne hn
  · rw [recvOp_closed hl]
    exact .between hb ((h.noFrameReceived (.inl rfl)).status 1#3 (by decide))

theorem effect_xferOp {s t : State} (hb : s.busy = false) (h : Between s t) : Effect s (xferOp t) := by
  by_cases hfail : 253 < (samplePlen t).toNat ∨ t.linkOpen = false
  · rw [xferOp_failed hfail]
    exact .between hb h.sendOp
  · simp only [not_or, Nat.not_lt, Bool.not_eq_false] at hfail
    rw [xferOp_sent hfail.1 hfail.2]
    exact effect_recvOp hb (h.afterSend hfail.1)

section Exec

variable {s u : State} (hu : Between s u) (hbusy : s.busy = true → u = s)
include hu hbusy

theorem effect_whenIdle {op : State → State} {t : State} (h : whenIdle op u = .next t)
    (hop : s.busy = false → Effect s (op u)) : Effect s t := by
  rcases whenIdle_next h with ⟨hb, rfl⟩ | ⟨hb, rfl⟩
  · exact hop (hu.machines.1 ▸ hb)
  · rw [hbusy (hu.machines.1 ▸ hb)]
    exact .outside (.refl s)

omit hbusy in
theorem effect_commandLine {c : Byte} {via : Via} {p : List Byte} {t : State}
    (h : commandLine c via p u = .next t) : Effect s t := by
  obtain ⟨hb, -, ⟨-, rfl⟩ | ⟨-, rfl⟩⟩ := commandLine_next h
  · exact .between (hu.machines.1 ▸ hb) ((hu.loadCommand c p).setOp _).sendOp
  · exact effect_xferOp (hu.machines.1 ▸ hb) ((hu.loadCommand c p).setOp _)

theorem effect_receiveItems {items : List RxItem} {t : State} (h : receiveItems items u = .next t) : Effect s t := by
  rw [receiveItems_eq] at h
  cases h
  cases hb : u.busy with
  | true =>
    rw [hbusy (hu.machines.1 ▸ hb)]
    exact .outside (.deliver items s)
  | false => exact effect_recvOp (hu.machines.1 ▸ hb) ((hu.deliver items).setOp _)

/-- What an instruction carried out whole can do. -/
theorem effect_exec {i : Instr} {t : State} (h : exec i u = .next t) : Effect s t := by
  cases i with
  | reserved0 | reserved7 => exact effect_whenIdle hu hbusy h fun hb => .between hb hu.reservedOp
  | connect => exact effect_whenIdle hu hbusy h fun hb => .between hb hu.connectOp
  | disconnect => exact effect_whenIdle hu hbusy h fun hb => .between hb hu.disconnectOp
  | enc => exact effect_whenIdle hu hbusy h fun hb => .between hb hu.encOp
  | send => exact effect_whenIdle hu hbusy h fun hb => .between hb hu.sendOp
  | recv => exact effect_whenIdle hu hbusy h fun hb => effect_recvOp hb hu
  | xfer => exact effect_whenIdle hu hbusy h fun hb => effect_xferOp hb hu
  | frame dir c q p =>
    cases dir with
    | built =>
      simp only [exec, execFrame, encLine] at h
      split at h
      · cases h
      · next hb =>
        split at h
        · cases h
        · cases h
          exact .between (hu.machines.1 ▸ Bool.eq_false_of_not_eq_true hb)
            (((hu.loadCommand c p).loadSeqIn q).setOp _).encOp
    | received =>
      simp only [exec, execFrame, receiveFrame] at h
      split at h
      · cases h
      · exact effect_receiveItems hu hbusy h
  | cmdQueryAlarm via p | cmdClearAlarms via p | cmdReboot via p | cmdOther c via p =>
    exact effect_commandLine hu h

end Exec

theorem issued_issuedMachine {isEnc isXfer : Bool} (hx : isXfer = true → isEnc = false) {s : State}
    (hp : (samplePlen s).toNat ≤ 253) : Issued (issuedMachine isEnc isXfer s) s.linkOpen := by
  have hplen := setWidth_plen_toNat hp
  refine ⟨rfl, by simp only [issuedMachine]; omega, ?_, ?_, ?_⟩ <;>
    cases isEnc <;> cases isXfer <;> simp_all [issuedMachine]

theorem effect_issueEncode {isEnc isXfer : Bool} (hx : isXfer = true → isEnc = false) {s t : State}
    (hb : s.busy = false) (h : Between s t) : Effect s (issueEncode isEnc isXfer t) := by
  rcases Nat.lt_or_ge 253 (samplePlen t).toNat with hp | hp
  · rw [issueEncode_tooLong _ _ hp]
    exact .between hb ((h.charge isEnc).encCleared.status 4#3 (by decide))
  · rw [issueEncode_started _ _ hp]
    exact .startsEncoder hb (h.charge isEnc) (issued_issuedMachine hx hp)

theorem effect_issueDecode {s t : State} (hb : s.busy = false) (h : Between s t) : Effect s (issueDecode t) := by
  rcases t.linkOpen.eq_false_or_eq_true with hl | hl
  · rw [issueDecode_open hl]
    exact .startsDecoder hb h hl
  · rw [issueDecode_closed hl]
    exact .between hb ((h.noFrameReceived (.inr rfl)).status 1#3 (by decide))

theorem effect_issueSerial (op : BitVec 3) {s t : State} (hb : s.busy = false) (h : Between s t) :
    Effect s (issueSerial op t) := by
  unfold issueSerial
  split
  · exact .between hb h.connectOp
  · exact .between hb h.disconnectOp
  · exact effect_issueEncode (by simp) hb h
  · exact effect_issueEncode (by simp) hb h
  · exact effect_issueEncode (by simp) hb h
  · exact effect_issueDecode hb h
  · exact .between hb h.reservedOp
  · exact .between hb h.reservedOp
  all_goals exact .between hb h

theorem effect_machineStep {s t : State} (h : machineStep s = .next t) : Effect s t := by
  by_cases he : s.em.state = .idle
  · by_cases hd : s.dm.state = .idle
    · unfold machineStep at h
      rw [if_pos he, if_pos hd] at h
      cases h
    · rw [machineStep_dec he hd] at h
      exact .decodes he hd h
  · rw [machineStep_enc he] at h
    exact .encodes he h

theorem effect_presentStep {w : HostWord} {s t : State} (h : presentStep w s = .next t) : Effect s t := by
  unfold presentStep at h
  split at h
  · split at h
    · exact effect_receiveItems .refl (fun _ => rfl) h
    · cases h
  · next i _ =>
    have hlatch : Between s (latchOp w i s) := by
      unfold latchOp
      split
      · exact Between.refl.setOp _
      · exact .refl
    exact effect_exec hlatch (fun hb => if_neg (by simp [hb])) h

/-- What a step can do, once its input is taken. -/
theorem step_effect {s t : State} (h : step s = .next t) : ∃ rest, Effect (dropInput rest s) t := by
  cases step_takes h with
  | reset rest hin => exact ⟨rest, .reset⟩
  | present w rest hin h => exact ⟨rest, effect_presentStep h⟩
  | presentSerial op rest hin hb => exact ⟨rest, effect_issueSerial op hb (Between.refl.setOp op)⟩
  | write w rest hb h => exact ⟨rest, .between hb (Between.refl.writeOperand h)⟩
  | machine rest hb h => exact ⟨rest, effect_machineStep h⟩
  | outside rest h => exact ⟨rest, .outside h⟩

end Sys2Proof.Machine

/-! # The invariants (10_state.md, 43_byte_serial_machines.md): every step keeps them -/

namespace Sys2Proof.Machine

/-! ## The layout -/

/-- The three situations of a block with the layout. -/
theorem layout_cases {s : State} (h : s.layout = true) :
    s.busy = false ∨ s.em.state ≠ .idle ∨ (s.em.state = .idle ∧ s.dm.state ≠ .idle) := by
  by_cases he : s.em.state = .idle
  · by_cases hd : s.dm.state = .idle
    · refine .inl ?_
      cases hb : s.busy with
      | false => rfl
      | true => simp [State.layout, hb, encActive, decActive, he, hd] at h
    · exact .inr (.inr ⟨he, hd⟩)
  · exact .inr (.inl he)

/-- Updates between operations keep the registers at rest and within their sizes. -/
theorem Between.fits {s t : State} (h : Between s t) (hrest : Rested s.dec) (hfits : Fits s) :
    Rested t.dec ∧ Fits t := by
  induction h with
  | refl => exact ⟨hrest, hfits⟩
  | status v hv _ ih => exact ⟨ih.1, hv, ih.2.txbuf, ih.2.enc, ih.2.dec⟩
  | link b _ ih => exact ⟨ih.1, ih.2.status, ih.2.txbuf, ih.2.enc, ih.2.dec⟩
  | @answer t _ ih =>
    rw [drawConnect_dec]
    exact ⟨ih.1, by rw [drawConnect_status]; exact ih.2.status, by rw [drawConnect_opr]; exact ih.2.txbuf,
      by rw [drawConnect_enc]; exact ih.2.enc, by rw [drawConnect_dec]; exact ih.2.dec⟩
  | seq _ ih => exact ⟨ih.1, ih.2.status, ih.2.txbuf, ih.2.enc, ih.2.dec⟩
  | rx r _ ih => exact ⟨ih.1, ih.2.status, ih.2.txbuf, ih.2.enc, ih.2.dec⟩
  | charge n _ ih => exact ⟨ih.1, ih.2.status, ih.2.txbuf, ih.2.enc, ih.2.dec⟩
  | operands o ho _ ih => exact ⟨ih.1, ih.2.status, ho ih.2.txbuf, ih.2.enc, ih.2.dec⟩
  | noFrameBuilt k _ ih => exact ⟨ih.1, ih.2.status, ih.2.txbuf, EncFits.empty, ih.2.dec⟩
  | encCleared _ ih => exact ⟨ih.1, ih.2.status, ih.2.txbuf, ih.2.enc.cleared, ih.2.dec⟩
  | built hf _ ih => exact ⟨ih.1, ih.2.status, ih.2.txbuf, .ofBytes (length_of_validFrame hf), ih.2.dec⟩
  | sent hf _ ih => exact ⟨ih.1, ih.2.status, ih.2.txbuf, ih.2.enc, ih.2.dec⟩
  | noFrameReceived hm _ ih =>
    refine ⟨Rested.noFrame _, ih.2.status, ih.2.txbuf, ih.2.enc, DecFits.noFrame ?_⟩
    rcases hm with rfl | rfl
    · rfl
    · exact ih.2.dec.wf
  | received hf _ ih => exact ⟨Rested.received hf, ih.2.status, ih.2.txbuf, ih.2.enc, DecFits.received hf⟩

/-- What stands outside the block is no part of the layout, but that `Never` stays known. -/
theorem SameInside.layout {s t : State} (h : SameInside s t) (hs : s.layout = true) : t.layout = true := by
  obtain ⟨hsame, hnever⟩ := h
  rcases layout_cases hs with hb | he | ⟨he, hd⟩
  · obtain ⟨he, hd, hrest, hf⟩ := (layout_iff_idle hb).mp hs
    rw [hsame]
    exact layout_of_idle ⟨hf.status, hf.txbuf, hf.enc, hf.dec⟩ hb he hd hrest
  · obtain ⟨hb, hd, hp, hrest, hf⟩ := (layout_iff_enc he).mp hs
    rw [hsame]
    exact layout_of_enc ⟨hf.status, hf.txbuf, hf.enc, hf.dec⟩ hb he hd
      ⟨hp.plen, hp.pos, hp.idx, hp.send, hp.xRecv, hp.nolink⟩ hrest
  · obtain ⟨hb, hl, hp, hf⟩ := (layout_iff_dec he hd).mp hs
    rw [hsame]
    exact layout_of_dec ⟨hf.status, hf.txbuf, hf.enc, hf.dec⟩ hb he hd hl (hp.imp_left hnever)

/-- The byte of the row is written within `FBUF`. -/
theorem Fits.emitted {s : State} (h : Fits s) (b : Byte) (hroom : s.enc.flen.toNat < 261) : Fits (emitted b s) :=
  ⟨h.status, h.txbuf, h.enc.emitted b hroom, h.dec⟩

theorem EncPlaced.room {s : State} (h : EncPlaced s) : s.enc.flen.toNat < 261 := by
  have := encPos_lt h.idx
  have := h.pos
  have := h.plen
  omega

theorem EncPlaced.rowStep {s : State} (h : EncPlaced s) (he : s.em.state ≠ .idle) (hf : s.em.state ≠ .fin1) :
    EncPlaced (rowStep s) ∧ (rowStep s).em.state ≠ .idle := by
  obtain ⟨hpos, hidx, hactive⟩ := encPos_rowMachine (rowByte s) he hf h.plen h.idx
  obtain ⟨-, -, hplen, hsend, hnolink, hxRecv⟩ := rowMachine_keeps (rowByte s) s.em
  have hflen : (Machine.rowStep s).enc.flen.toNat = s.enc.flen.toNat + 1 := emitted_flen_toNat h.room _
  exact
    ⟨{ plen := by rw [show (Machine.rowStep s).em.plen = s.em.plen from hplen]; exact h.plen
       pos := by rw [hflen, h.pos]; exact hpos.symm
       idx := fun hp => by rw [show (Machine.rowStep s).em.plen = s.em.plen from hplen]; exact hidx hp
       send := fun hs => h.send (hsend.symm.trans hs)
       xRecv := fun hx => hsend.trans (h.xRecv (hxRecv.symm.trans hx))
       nolink := fun hn => hsend.trans (h.nolink (hnolink.symm.trans hn)) }, hactive⟩

theorem decPlaced_start {s : State} (hst : s.dm.state ≠ .body) (h : s.dec.rxCnt.toNat = 0) : DecPlaced s := by
  unfold DecPlaced
  rwa [if_neg hst]

theorem decPlaced_in_body {s : State} (hst : s.dm.state = .body) (hrem : 0 < s.dm.rem.toNat)
    (hsum : s.dec.rxCnt.toNat + s.dm.rem.toNat = s.dec.rxLen.toNat + 3) : DecPlaced s := by
  unfold DecPlaced
  rw [if_pos hst]
  exact ⟨hrem, hsum⟩

/-- The completion of a frame leaves the block between operations, or, in an XFER, the decoder at its start. -/
theorem layout_encDone {s : State} (hbusy : s.busy = true) (hd : s.dm.state = .idle)
    (hlink : s.em.send = true → s.linkOpen = true) (hrest : Rested s.dec) (hf : Fits s) :
    (encDone s).layout = true := by
  have hok : (0#3).toNat ≤ 4 := by decide
  have hnotOpen : (1#3).toNat ≤ 4 := by decide
  rcases s.em.nolink.eq_false_or_eq_true with hn | hn
  · rw [encDone_noLink hn]
    exact layout_of_idle ⟨hnotOpen, hf.txbuf, hf.enc, hf.dec⟩ rfl rfl hd hrest
  · rcases s.em.send.eq_false_or_eq_true with hs | hs
    · rcases s.em.xRecv.eq_false_or_eq_true with hx | hx
      · rw [encDone_xfer hn hs hx]
        exact layout_of_dec ⟨hf.status, hf.txbuf, hf.enc, DecFits.noFrame hf.dec.wf⟩ hbusy rfl (by simp) (hlink hs)
          (.inr (decPlaced_start (by simp) rfl))
      · rw [encDone_send hn hs hx]
        exact layout_of_idle ⟨hok, hf.txbuf, hf.enc, hf.dec⟩ rfl rfl hd hrest
    · rw [encDone_enc hn hs]
      exact layout_of_idle ⟨hok, hf.txbuf, hf.enc, hf.dec⟩ rfl rfl hd hrest

/-- An encoder step is a row, or E_END1 and the completion. -/
theorem encStep_next {s t : State} (he : s.em.state ≠ .idle) (h : encStep s = .next t) :
    s.enc.flen.toNat < 261 ∧
      ((s.em.state ≠ .fin1 ∧ t = rowStep s) ∨ (s.em.state = .fin1 ∧ t = encDone (emitted 0x0A#8 s))) := by
  have hroom := encStep_next_room h
  refine ⟨hroom, ?_⟩
  by_cases hf : s.em.state = .fin1
  · rw [encStep_fin1 hf hroom] at h
    cases h
    exact .inr ⟨hf, rfl⟩
  · rw [encStep_row he hf hroom] at h
    cases h
    exact .inl ⟨hf, rfl⟩

theorem layout_encStep {s t : State} (hs : s.layout = true) (he : s.em.state ≠ .idle) (h : encStep s = .next t) :
    t.layout = true := by
  obtain ⟨hb, hd, hp, hrest, hf⟩ := (layout_iff_enc he).mp hs
  obtain ⟨hroom, ⟨hne, rfl⟩ | ⟨hfin, rfl⟩⟩ := encStep_next he h
  · obtain ⟨hp', he'⟩ := hp.rowStep he hne
    have hf' := hf.emitted (rowByte s) hroom
    exact layout_of_enc ⟨hf'.status, hf'.txbuf, hf'.enc, hf'.dec⟩ hb he' hd hp' hrest
  · exact layout_encDone (s := emitted 0x0A#8 s) hb hd hp.send hrest (hf.emitted _ hroom)

/-- A decoder step takes `End`, or a byte by the row of its state; the next item is then not `Never`. -/
theorem decStep_next {s t : State} (h : decStep s = .next t) :
    nextIsNever s.rx = false ∧
      ((∃ r, t = decError .truncated (setRx r s)) ∨ ∃ b r, decByte b (setRx r s) = .next t) := by
  unfold decStep at h
  have hnever : s.rx.item.1 ≠ .never → nextIsNever s.rx = false := fun hne => by
    by_contra hn
    exact hne (by rw [RxStream.item_of_nextIsNever (Bool.eq_true_of_not_eq_false hn)])
  split at h
  · next b r hi => exact ⟨hnever (by simp [hi]), .inr ⟨b, r, h⟩⟩
  · next r hi => cases h; exact ⟨hnever (by simp [hi]), .inl ⟨r, rfl⟩⟩
  · cases h

/-- The error completion leaves the block between operations (R153). -/
theorem layout_decError {s : State} (k : ErrorKind) (he : s.em.state = .idle) (hf : Fits s) :
    (decError k s).layout = true :=
  have hstatus : k.code.toNat ≤ 4 := by cases k <;> decide
  layout_of_idle ⟨hstatus, hf.txbuf, hf.enc, DecFits.noFrame hf.dec.wf⟩ rfl he rfl (Rested.noFrame _)

/-- What a row of the decoder can do to a byte, by the state it is in; in the body, `DecPlaced` says there is room. -/
theorem decByte_next {s t : State} {b : Byte} (h : decByte b s = .next t) :
    (s.dm.state = .hdr0 ∧ t = setDm { s.dm with h0 := b, state := .hdr1 } s) ∨
    (s.dm.state = .hdr1 ∧ (t = decTo .len s ∨ t = decError .badHeader s)) ∨
    (s.dm.state = .len ∧ t = lenRow b s) ∨
    (s.dm.state = .body ∧ decBody b s = .next t) := by
  unfold decByte at h
  split at h
  · cases h
  · next hst => cases h; exact .inl ⟨hst, rfl⟩
  · next hst =>
    cases h
    refine .inr (.inl ⟨hst, ?_⟩)
    split
    · exact .inl rfl
    · exact .inr rfl
  · next hst => cases h; exact .inr (.inr (.inl ⟨hst, rfl⟩))
  · next hst => exact .inr (.inr (.inr ⟨hst, h⟩))

theorem decPlaced_of_body {s : State} (hst : s.dm.state = .body) (h : DecPlaced s) :
    0 < s.dm.rem.toNat ∧ s.dec.rxCnt.toNat + s.dm.rem.toNat = s.dec.rxLen.toNat + 3 := by
  unfold DecPlaced at h
  rwa [if_pos hst] at h

theorem decPlaced_of_not_body {s : State} (hst : s.dm.state ≠ .body) (h : DecPlaced s) : s.dec.rxCnt.toNat = 0 := by
  unfold DecPlaced at h
  rwa [if_neg hst] at h

/-- In the body the byte is stored, and the last one completes the operation. -/
theorem decBody_next {s t : State} {b : Byte} (hst : s.dm.state = .body) (hp : DecPlaced s)
    (h : decBody b s = .next t) :
    s.dec.rxCnt.toNat < 258 ∧
      ((1 < s.dm.rem.toNat ∧ t = stored b s) ∨ (s.dm.rem.toNat = 1 ∧ t = decDone (stored b s))) := by
  obtain ⟨hrem, hsum⟩ := decPlaced_of_body hst hp
  have := s.dec.rxLen.isLt
  have hroom : s.dec.rxCnt.toNat < 258 := by omega
  obtain ⟨hmore, hlast⟩ := decBody_cases (b := b) hroom hrem
  refine ⟨hroom, ?_⟩
  rcases Nat.lt_or_ge 1 s.dm.rem.toNat with h1 | h1
  · rw [hmore h1] at h
    cases h
    exact .inl ⟨h1, rfl⟩
  · have h1 : s.dm.rem.toNat = 1 := by omega
    rw [hlast h1] at h
    cases h
    exact .inr ⟨h1, rfl⟩

theorem stored_state (b : Byte) (s : State) : (stored b s).dm.state = s.dm.state := by rw [stored_dm]

theorem layout_decByte {s t : State} {b : Byte} (hb : s.busy = true) (he : s.em.state = .idle)
    (hl : s.linkOpen = true) (hp : DecPlaced s) (hf : Fits s) (h : decByte b s = .next t) : t.layout = true := by
  rcases decByte_next h with ⟨hst, rfl⟩ | ⟨hst, rfl | rfl⟩ | ⟨hst, rfl⟩ | ⟨hst, hbody⟩
  · have hcnt := decPlaced_of_not_body (by simp [hst]) hp
    exact layout_of_dec ⟨hf.status, hf.txbuf, hf.enc, hf.dec⟩ hb he (by simp) hl (.inr (decPlaced_start (by simp) hcnt))
  · have hcnt := decPlaced_of_not_body (by simp [hst]) hp
    exact layout_of_dec ⟨hf.status, hf.txbuf, hf.enc, hf.dec⟩ hb he (by simp) hl (.inr (decPlaced_start (by simp) hcnt))
  · exact layout_decError _ he hf
  · have hcnt := decPlaced_of_not_body (by simp [hst]) hp
    have hrem := lenRow_rem_toNat b s
    have hplaced : DecPlaced (lenRow b s) :=
      decPlaced_in_body rfl (by omega) ((congrArg₂ (· + ·) hcnt hrem).trans (Nat.zero_add _))
    exact layout_of_dec ⟨hf.status, hf.txbuf, hf.enc, hf.dec.cnt, hf.dec.wf, hf.dec.listed⟩ hb he
      (by simp [lenRow]) hl (.inr hplaced)
  · obtain ⟨hrem, hsum⟩ := decPlaced_of_body hst hp
    obtain ⟨hroom, hcase⟩ := decBody_next hst hp hbody
    have hcnt := stored_rxCnt_toNat b s hroom
    have hleft := stored_rem_toNat b s hrem
    have hdec := hf.dec.stored b hroom
    rcases hcase with ⟨hmore, rfl⟩ | ⟨hlast, rfl⟩
    · have hst' : (stored b s).dm.state = .body := (stored_state b s).trans hst
      have hsum' : (stored b s).dec.rxCnt.toNat + (stored b s).dm.rem.toNat = s.dec.rxLen.toNat + 3 := by omega
      exact layout_of_dec ⟨hf.status, hf.txbuf, hf.enc, hdec⟩ hb he (by simp [hst']) hl
        (.inr (decPlaced_in_body hst' (by omega) hsum'))
    · have hstatus : (0#3).toNat ≤ 4 := by decide
      have hwhole : s.dec.rxCnt.toNat + 1 = s.dec.rxLen.toNat + 3 := by omega
      exact layout_of_idle ⟨hstatus, hf.txbuf, hf.enc, hdec.cnt, hdec.wf, hdec.listed⟩ rfl he rfl
        (.inr (hcnt.trans hwhole))

theorem layout_decStep {s t : State} (hs : s.layout = true) (he : s.em.state = .idle) (hd : s.dm.state ≠ .idle)
    (h : decStep s = .next t) : t.layout = true := by
  obtain ⟨hb, hl, hp, hf⟩ := (layout_iff_dec he hd).mp hs
  obtain ⟨hnever, ⟨r, rfl⟩ | ⟨b, r, hbyte⟩⟩ := decStep_next h
  · exact layout_decError _ he ⟨hf.status, hf.txbuf, hf.enc, hf.dec⟩
  · exact layout_decByte (s := setRx r s) hb he hl (hp.resolve_left (by simp [hnever]))
      ⟨hf.status, hf.txbuf, hf.enc, hf.dec⟩ hbyte

theorem Effect.layout {s t : State} (h : Effect s t) (hs : s.layout = true) : t.layout = true := by
  cases h with
  | outside h => exact h.layout hs
  | reset => rfl
  | between hb h =>
    obtain ⟨he, hd, hrest, hf⟩ := (layout_iff_idle hb).mp hs
    obtain ⟨hbusy, hem, hdm⟩ := h.machines
    obtain ⟨hrest', hf'⟩ := h.fits hrest hf
    exact layout_of_idle hf' (hbusy.trans hb) (hem ▸ he) (hdm ▸ hd) hrest'
  | hangs hb h hl hne hn =>
    obtain ⟨he, hd, hrest, hf⟩ := (layout_iff_idle hb).mp hs
    obtain ⟨hbusy, hem, hdm⟩ := h.machines
    obtain ⟨hrest', hf'⟩ := h.fits hrest hf
    exact layout_of_dec ⟨hf'.status, hf'.txbuf, hf'.enc, hf'.dec⟩ rfl (hem ▸ he) hne hl (.inl hn)
  | startsEncoder hb h hm =>
    obtain ⟨he, hd, hrest, hf⟩ := (layout_iff_idle hb).mp hs
    obtain ⟨hbusy, hem, hdm⟩ := h.machines
    obtain ⟨hrest', hf'⟩ := h.fits hrest hf
    exact layout_of_enc ⟨hf'.status, hf'.txbuf, hf'.enc.cleared, hf'.dec⟩ rfl (by simp [hm.state]) (hdm ▸ hd)
      ⟨hm.plen, by simp [encPos, hm.state], by simp [hm.state], hm.send, hm.xRecv, hm.nolink⟩ hrest'
  | startsDecoder hb h hl =>
    obtain ⟨he, hd, hrest, hf⟩ := (layout_iff_idle hb).mp hs
    obtain ⟨hbusy, hem, hdm⟩ := h.machines
    obtain ⟨hrest', hf'⟩ := h.fits hrest hf
    exact layout_of_dec ⟨hf'.status, hf'.txbuf, hf'.enc, DecFits.noFrame hf'.dec.wf⟩ rfl (hem ▸ he) (by simp) hl
      (.inr (decPlaced_start (by simp) rfl))
  | encodes he h => exact layout_encStep hs he h
  | decodes he hd h => exact layout_decStep hs he hd h

/-- Settles O49: whatever effect the step has. -/
theorem stepKeepsLayout : Obligations.StepKeepsLayout := by
  unfold Obligations.StepKeepsLayout
  intro s t hs h
  obtain ⟨rest, he⟩ := step_effect h
  exact he.layout hs

/-- Settles O50: the layout is computed. -/
theorem resetHasLayout : Obligations.ResetHasLayout := by
  unfold Obligations.ResetHasLayout
  rfl

/-- In a state with the layout the encoder has room for its byte. -/
theorem encStep_of_layout {s : State} (hs : s.layout = true) (he : s.em.state ≠ .idle) : ∃ t, encStep s = .next t := by
  obtain ⟨-, -, hp, -, -⟩ := (layout_iff_enc he).mp hs
  by_cases hf : s.em.state = .fin1
  · exact ⟨_, encStep_fin1 hf hp.room⟩
  · exact ⟨_, encStep_row he hf hp.room⟩

/-- In a state with the layout the decoder's one fault is a read that never returns. -/
theorem decStep_of_layout {s : State} (hs : s.layout = true) (he : s.em.state = .idle) (hd : s.dm.state ≠ .idle) :
    (∃ t, decStep s = .next t) ∨ decStep s = .fault .readNeverReturns := by
  obtain ⟨-, -, hp, -⟩ := (layout_iff_dec he hd).mp hs
  rcases hi : s.rx.item with ⟨it, r⟩
  cases it with
  | never => exact .inr (decStep_never (by rw [hi]))
  | streamEnd => exact .inl ⟨_, by unfold decStep; rw [hi]⟩
  | byte b =>
    have hplaced : DecPlaced s := hp.resolve_left fun hn => by
      rw [RxStream.item_of_nextIsNever hn] at hi
      cases hi
    have hstep : decStep s = decByte b (setRx r s) := by unfold decStep; rw [hi]
    rw [hstep]
    unfold decByte
    cases hst : s.dm.state <;> rw [setRx_dm, hst]
    case idle => exact absurd hst hd
    case body =>
      obtain ⟨hrem, hsum⟩ := decPlaced_of_body hst hplaced
      have := s.dec.rxLen.isLt
      exact .inl ⟨_, decBody_of_room (s := setRx r s) (show s.dec.rxCnt.toNat < 258 by omega)⟩
    all_goals exact .inl ⟨_, rfl⟩

/-- Settles O54: an idle block goes on, the encoder has room, and the decoder can only wait for ever. -/
theorem layoutExcludesMachineFaults : Obligations.LayoutExcludesMachineFaults := by
  unfold Obligations.LayoutExcludesMachineFaults
  intro s hs hin
  rcases layout_cases hs with hb | he | ⟨he, hd⟩
  · have hstep : step s = .next s := by unfold step; rw [hin]; exact if_neg (by simp [hb])
    rw [hstep]
    exact ⟨by simp, by simp⟩
  · obtain ⟨hb, -⟩ := (layout_iff_enc he).mp hs
    obtain ⟨t, ht⟩ := encStep_of_layout hs he
    rw [step_of_no_input hin hb, machineStep_enc he, ht]
    exact ⟨by simp, by simp⟩
  · obtain ⟨hb, -⟩ := (layout_iff_dec he hd).mp hs
    rw [step_of_no_input hin hb, machineStep_dec he hd]
    rcases decStep_of_layout hs he hd with ⟨t, ht⟩ | ht <;> rw [ht] <;> exact ⟨by simp, by simp⟩

end Sys2Proof.Machine

/-! # The contents and what has been sent (R16, R18, R41, R104): every step keeps them true -/

namespace Sys2Proof.Machine

/-! ## The contents in each situation -/

/-- The encoder result registers hold no frame or a valid one (R16, R93). -/
def EncTrue (e : EncoderRegs) : Prop :=
  e.flen.toNat = 0 ∨ validFrame (bufferBytes e.fbuf e.flen.toNat) = true

/-- The decoder result registers hold no byte, or the flags of the bytes they hold (R18, R104). -/
def DecTrue (d : DecoderRegs) : Prop :=
  d.rxCnt.toNat = 0 ∨ d.flags = validate ⟨d.rxLen, bufferBytes d.rxbuf d.rxCnt.toNat⟩

/-- The bytes the decoder result registers hold. -/
abbrev received (s : State) : List Byte := bufferBytes s.dec.rxbuf s.dec.rxCnt.toNat

theorem contents_iff_idle {s : State} (he : s.em.state = .idle) (hd : s.dm.state = .idle) :
    s.contents = true ↔ DecTrue s.dec ∧ EncTrue s.enc := by
  simp [State.contents, encContents, decContents, encResult, encActive, he, hd, receivedFrame, DecTrue, EncTrue]

theorem contents_of_idle {s : State} (he : s.em.state = .idle) (hd : s.dm.state = .idle) (hdt : DecTrue s.dec)
    (het : EncTrue s.enc) : s.contents = true := (contents_iff_idle he hd).mpr ⟨hdt, het⟩

/-- In an encoding the contents say what `Encoding` says, but for what the layout says already. -/
theorem contents_iff_enc {s : State} (hs : s.layout = true) (he : s.em.state ≠ .idle) :
    s.contents = true ↔ Encoding s ∧ DecTrue s.dec := by
  obtain ⟨-, hd, hp, -, hf⟩ := (layout_iff_enc he).mp hs
  have hactive : (s.em.state != .idle) = true := bne_iff_ne.mpr he
  have hlt := encPos_lt hp.idx
  have hlen : ((encFrame s).take s.enc.flen.toNat).length = s.enc.flen.toNat :=
    List.length_take_of_le (by rw [encFrame_length, hp.pos]; omega)
  have hcontents : s.contents = true ↔
      (bufferBytes s.enc.fbuf s.enc.flen.toNat = (encFrame s).take s.enc.flen.toNat ∧
        (s.enc.flen.toNat ≤ 2 ∨ s.em.sum = checksum ((encBody s).take (s.enc.flen.toNat - 2)))) ∧
      DecTrue s.dec := by
    simp [State.contents, encContents, decContents, encResult, encActive, hactive, hd, receivedFrame, DecTrue, encFrame,
      encBody]
  rw [hcontents]
  refine and_congr_left fun _ => ⟨fun ⟨hbytes, hsum⟩ => ?_, fun h => ⟨?_, ?_⟩⟩
  · obtain ⟨-, hread⟩ := bufferBytes_of_allListed hf.enc.listed
    exact
      { active := he
        plen := hp.plen
        pos := hp.pos
        idx := hp.idx
        bytes := fun i hi => by rw [hread i hi, hbytes, List.getElem?_take_of_lt hi]
        sum := fun h2 => hsum.resolve_left (Nat.not_le.mpr h2) }
  · have hread := bufferBytes_eq (m := s.enc.fbuf) ((encFrame s).take s.enc.flen.toNat) fun i hi => by
      rw [hlen] at hi
      rw [h.bytes i hi, List.getElem?_take_of_lt hi]
    rwa [hlen] at hread
  · exact (Nat.lt_or_ge 2 s.enc.flen.toNat).symm.imp_right h.sum

/-- In a decoding the contents say what `Decoding` says of the bytes held, but for what the layout says already. -/
theorem contents_iff_dec {s : State} (hs : s.layout = true) (he : s.em.state = .idle) (hd : s.dm.state ≠ .idle) :
    s.contents = true ↔
      (s.dm.state = .body → nextIsNever s.rx = true ∨ Decoding s (received s)) ∧ EncTrue s.enc := by
  obtain ⟨-, -, hp, hf⟩ := (layout_iff_dec he hd).mp hs
  obtain ⟨hlen, hread⟩ := bufferBytes_of_allListed hf.dec.listed
  by_cases hst : s.dm.state = .body
  · have hcontents : s.contents = true ↔
        (nextIsNever s.rx = true ∨
          (s.dm.sum = checksum (s.dec.rxLen :: (received s).take s.dec.rxLen.toNat) ∧
            (s.dec.rxCnt.toNat ≤ s.dec.rxLen.toNat ∨
              s.dec.flags.chkOk = (validate ⟨s.dec.rxLen, received s⟩).chkOk)) ∧
            (s.dec.rxCnt.toNat ≤ s.dec.rxLen.toNat + 1 ∨
              s.dm.e0 = ((received s)[s.dec.rxLen.toNat + 1]? == some Config.endByte0))) ∧
        EncTrue s.enc := by
      unfold State.contents encContents decContents encResult receivedFrame EncTrue encActive
      simp [he, hst]
    rw [hcontents]
    refine and_congr_left fun _ => ⟨fun h _ => ?_, fun h => ?_⟩
    · rcases h with hn | ⟨⟨hsum, hchk⟩, he0⟩
      · exact .inl hn
      · rcases hp with hn | hp
        · exact .inl hn
        · obtain ⟨hrem, htotal⟩ := decPlaced_of_body hst hp
          exact .inr
            { body := hst
              cnt := hlen.symm
              rem := by rw [hlen]; exact htotal
              more := hrem
              bytes := by rw [hlen]; exact hread
              sum := hsum
              chk := fun hn => hchk.resolve_left (by rw [hlen] at hn; exact Nat.not_le.mpr hn)
              e0 := fun hn => he0.resolve_left (by rw [hlen] at hn; exact Nat.not_le.mpr hn) }
    · rcases h hst with hn | hdec
      · exact .inl hn
      · refine .inr ⟨⟨hdec.sum, ?_⟩, ?_⟩
        · exact (Nat.lt_or_ge _ _).symm.imp_right fun hn => hdec.chk (by rw [← hdec.cnt]; exact hn)
        · exact (Nat.lt_or_ge _ _).symm.imp_right fun hn => hdec.e0 (by rw [← hdec.cnt]; exact hn)
  · have hcontents : s.contents = true ↔ EncTrue s.enc := by
      cases hst' : s.dm.state
      case idle => exact absurd hst' hd
      case body => exact absurd hst' hst
      all_goals simp [State.contents, encContents, decContents, encResult, encActive, he, hst', EncTrue]
    rw [hcontents]
    exact ⟨fun h => ⟨fun hb => absurd hb hst, h⟩, fun h => h.2⟩

/-! ## The operations on the result registers keep them true -/

theorem EncTrue.ofBytes {f : List Byte} (h : validFrame f = true) :
    EncTrue { fbuf := Memory.ofBytes 0 f, flen := BitVec.ofNat 9 f.length } := by
  have hfits := length_of_validFrame h
  have hlen : (BitVec.ofNat 9 f.length).toNat = f.length := by rw [BitVec.toNat_ofNat]; omega
  refine .inr ?_
  dsimp only
  rw [hlen, bufferBytes_eq f fun i _ => Memory.read_ofBytes_zero f i]
  exact h

theorem DecTrue.received {f : Frame} (h : f.trail.length = f.len.toNat + 3) : DecTrue (receivedRegs f) := by
  refine .inr ?_
  rw [receivedRegs_cnt h, bufferBytes_eq f.trail fun i _ => Memory.read_ofBytes_zero f.trail i]

/-- Updates between operations keep the registers true. -/
theorem Between.true {s t : State} (h : Between s t) (hdec : DecTrue s.dec) (henc : EncTrue s.enc) :
    DecTrue t.dec ∧ EncTrue t.enc := by
  induction h with
  | refl => exact ⟨hdec, henc⟩
  | answer _ ih => rw [drawConnect_dec, drawConnect_enc]; exact ih
  | noFrameBuilt k _ ih => exact ⟨ih.1, .inl rfl⟩
  | encCleared _ ih => exact ⟨ih.1, .inl rfl⟩
  | built hf _ ih => exact ⟨ih.1, EncTrue.ofBytes hf⟩
  | noFrameReceived hm _ ih => exact ⟨.inl rfl, ih.2⟩
  | received hf _ ih => exact ⟨DecTrue.received hf, ih.2⟩
  | _ => assumption

/-- The completed frame in `FBUF` is valid (R93). -/
theorem Encoding.encTrue {s : State} (h : Encoding s) (hf : s.em.state = .fin1) :
    bufferBytes (emitted 0x0A#8 s).enc.fbuf (emitted 0x0A#8 s).enc.flen.toNat = encFrame s ∧
      validFrame (encFrame s) = true := by
  obtain ⟨hflen, hread⟩ := h.done hf
  refine ⟨?_, validFrame_frameBytes _ _ (by rw [machinePayload_length]; exact h.plen)⟩
  rw [hflen, ← encFrame_length]
  exact bufferBytes_eq _ (by rw [encFrame_length]; exact hread)

/-- The bytes the decoder holds with one more, where its buffer holds those before. -/
theorem received_stored {s : State} {bs : List Byte} (h : Decoding s bs) (b : Byte) :
    received (stored b s) = bs ++ [b] := by
  unfold received
  rw [h.stored_cnt b]
  exact bufferBytes_eq _ (h.stored_bytes b)

/-! ## The contents -/

theorem SameInside.encoding {s t : State} (h : SameInside s t) (hs : Encoding s) : Encoding t := by
  rw [h.same]
  exact ⟨hs.active, hs.plen, hs.pos, hs.idx, hs.bytes, hs.sum⟩

theorem Decoding.of_same {s t : State} {bs : List Byte} (hdm : t.dm = s.dm) (hdec : t.dec = s.dec) (h : Decoding s bs) :
    Decoding t bs :=
  ⟨hdm ▸ h.body, hdec ▸ h.cnt, hdm ▸ hdec ▸ h.rem, hdm ▸ h.more, hdec ▸ h.bytes, hdm ▸ hdec ▸ h.sum, hdec ▸ h.chk,
    hdm ▸ hdec ▸ h.e0⟩

theorem SameInside.contents {s t : State} (h : SameInside s t) (hs : s.layout = true) (hc : s.contents = true) :
    t.contents = true := by
  have hlt := h.layout hs
  have hem : t.em = s.em := by rw [h.same]
  have hdm : t.dm = s.dm := by rw [h.same]
  have henc : t.enc = s.enc := by rw [h.same]
  have hdec : t.dec = s.dec := by rw [h.same]
  rcases layout_cases hs with hb | he | ⟨he, hd⟩
  · obtain ⟨he, hd, -, -⟩ := (layout_iff_idle hb).mp hs
    rw [contents_iff_idle (hem ▸ he) (hdm ▸ hd), henc, hdec]
    exact (contents_iff_idle he hd).mp hc
  · obtain ⟨hrun, hdt⟩ := (contents_iff_enc hs he).mp hc
    rw [contents_iff_enc hlt (hem ▸ he), hdec]
    exact ⟨h.encoding hrun, hdt⟩
  · obtain ⟨hrun, het⟩ := (contents_iff_dec hs he hd).mp hc
    rw [contents_iff_dec hlt (hem ▸ he) (hdm ▸ hd), received, hdec, henc, hdm]
    exact ⟨fun hst => (hrun hst).imp h.never (Decoding.of_same hdm hdec), het⟩

theorem contents_encDone {s : State} (hd : s.dm.state = .idle) (hlay : (encDone s).layout = true)
    (hdt : DecTrue s.dec) (het : EncTrue s.enc) : (encDone s).contents = true := by
  rcases s.em.nolink.eq_false_or_eq_true with hn | hn
  · rw [encDone_noLink hn]
    exact contents_of_idle rfl hd hdt het
  · rcases s.em.send.eq_false_or_eq_true with hs | hs
    · rcases s.em.xRecv.eq_false_or_eq_true with hx | hx
      · rw [encDone_xfer hn hs hx] at hlay ⊢
        exact (contents_iff_dec hlay rfl (by simp)).mpr ⟨by simp, het⟩
      · rw [encDone_send hn hs hx]
        exact contents_of_idle rfl hd hdt het
    · rw [encDone_enc hn hs]
      exact contents_of_idle rfl hd hdt het

theorem contents_encStep {s t : State} (hs : s.layout = true) (hc : s.contents = true) (he : s.em.state ≠ .idle)
    (h : encStep s = .next t) : t.contents = true := by
  have hlay := layout_encStep hs he h
  obtain ⟨-, hd, -⟩ := (layout_iff_enc he).mp hs
  obtain ⟨hrun, hdt⟩ := (contents_iff_enc hs he).mp hc
  obtain ⟨-, ⟨hne, rfl⟩ | ⟨hfin, rfl⟩⟩ := encStep_next he h
  · have hrun' := hrun.rowStep hne
    exact (contents_iff_enc hlay hrun'.active).mpr ⟨hrun', hdt⟩
  · obtain ⟨hbytes, hvalid⟩ := hrun.encTrue hfin
    exact contents_encDone (s := emitted 0x0A#8 s) hd hlay hdt (.inr (by rw [hbytes]; exact hvalid))

theorem contents_decError {s : State} (k : ErrorKind) (he : s.em.state = .idle) (het : EncTrue s.enc) :
    (decError k s).contents = true := contents_of_idle he rfl (.inl rfl) het

theorem contents_decStep {s t : State} (hs : s.layout = true) (hc : s.contents = true) (he : s.em.state = .idle)
    (hd : s.dm.state ≠ .idle) (h : decStep s = .next t) : t.contents = true := by
  have hlay := layout_decStep hs he hd h
  obtain ⟨-, -, hp, -⟩ := (layout_iff_dec he hd).mp hs
  obtain ⟨hrun, het⟩ := (contents_iff_dec hs he hd).mp hc
  obtain ⟨hnever, ⟨r, rfl⟩ | ⟨b, r, hbyte⟩⟩ := decStep_next h
  · exact contents_decError _ he het
  have hp : DecPlaced s := hp.resolve_left (by simp [hnever])
  rcases decByte_next hbyte with ⟨hst, rfl⟩ | ⟨hst, rfl | rfl⟩ | ⟨hst, rfl⟩ | ⟨hst, hbody⟩
  · exact (contents_iff_dec hlay he (by simp)).mpr ⟨by simp, het⟩
  · exact (contents_iff_dec hlay he (by simp)).mpr ⟨by simp, het⟩
  · exact contents_decError _ he het
  · rw [setRx_dm] at hst
    have hcnt := decPlaced_of_not_body (by simp [hst]) hp
    have hstart : Decoding (lenRow b (setRx r s)) [] := Decoding.start hcnt
    have hnone : received (lenRow b (setRx r s)) = [] := by
      unfold received
      rw [hstart.cnt]; rfl
    exact (contents_iff_dec hlay he (by simp [lenRow])).mpr ⟨fun _ => .inr (hnone ▸ hstart), het⟩
  · rw [setRx_dm] at hst
    have hrun : Decoding (setRx r s) (received s) :=
      Decoding.of_same (s := s) rfl rfl ((hrun hst).resolve_left (by simp [hnever]))
    obtain ⟨-, ⟨hmore, rfl⟩ | ⟨hlast, rfl⟩⟩ := decBody_next (s := setRx r s) hst hp hbody
    · have hrun' := hrun.stored b hmore
      refine (contents_iff_dec hlay he (by simp [hrun'.body])).mpr ⟨fun _ => .inr ?_, het⟩
      rw [received_stored hrun]
      exact hrun'
    · obtain ⟨-, hflags⟩ := hrun.done b hlast
      have hbytes := received_stored hrun b
      exact contents_of_idle he rfl (.inr (hflags.trans (by rw [← hbytes]; rfl))) het

/-- An encoder that was just issued is in its frame, with nothing produced. -/
theorem Issued.encoding {t : State} {m : EncMachine} (h : Issued m t.linkOpen) :
    Encoding (setBusy true (setEm m (clearEnc t))) where
  active := by simp [h.state]
  plen := h.plen
  pos := by simp [encPos, h.state]
  idx := by simp [h.state]
  bytes := fun i hi => absurd hi (Nat.not_lt_zero i)
  sum := fun h2 => absurd h2 (Nat.not_lt_zero 2)

theorem Effect.contents {s t : State} (h : Effect s t) (hs : s.layout = true) (hc : s.contents = true) :
    t.contents = true := by
  have hlay := h.layout hs
  cases h with
  | outside h => exact h.contents hs hc
  | reset => rfl
  | between hb h =>
    obtain ⟨he, hd, -, -⟩ := (layout_iff_idle hb).mp hs
    obtain ⟨-, hem, hdm⟩ := h.machines
    obtain ⟨hdt, het⟩ := (contents_iff_idle he hd).mp hc
    exact (contents_iff_idle (hem ▸ he) (hdm ▸ hd)).mpr (h.true hdt het)
  | hangs hb h hl hne hn =>
    obtain ⟨he, hd, -, -⟩ := (layout_iff_idle hb).mp hs
    obtain ⟨-, hem, -⟩ := h.machines
    obtain ⟨hdt, het⟩ := (contents_iff_idle he hd).mp hc
    exact (contents_iff_dec hlay (hem ▸ he) hne).mpr ⟨fun _ => .inl hn, (h.true hdt het).2⟩
  | startsEncoder hb h hm =>
    obtain ⟨he, hd, -, -⟩ := (layout_iff_idle hb).mp hs
    obtain ⟨hdt, het⟩ := (contents_iff_idle he hd).mp hc
    exact (contents_iff_enc hlay (by simp [hm.state])).mpr ⟨hm.encoding, (h.true hdt het).1⟩
  | startsDecoder hb h hl =>
    obtain ⟨he, hd, -, -⟩ := (layout_iff_idle hb).mp hs
    obtain ⟨-, hem, -⟩ := h.machines
    obtain ⟨hdt, het⟩ := (contents_iff_idle he hd).mp hc
    exact (contents_iff_dec hlay (hem ▸ he) (by simp)).mpr ⟨by simp, (h.true hdt het).2⟩
  | encodes he h => exact contents_encStep hs hc he h
  | decodes he hd h => exact contents_decStep hs hc he hd h

/-- Settles O51: whatever effect the step has. -/
theorem stepKeepsContents : Obligations.StepKeepsContents := by
  unfold Obligations.StepKeepsContents
  intro s t hs hc h
  obtain ⟨rest, he⟩ := step_effect h
  exact he.contents hs hc

/-! ## What has been sent (R41, R119) -/

/-- `bs` is a concatenation of valid frames. -/
def WholeFrames (bs : List Byte) : Prop := ∃ fs : List (List Byte), (∀ f ∈ fs, validFrame f = true) ∧ bs = fs.flatten

theorem WholeFrames.append {bs f : List Byte} (h : WholeFrames bs) (hf : validFrame f = true) :
    WholeFrames (bs ++ f) := by
  obtain ⟨fs, hfs, rfl⟩ := h
  refine ⟨fs ++ [f], fun g hg => ?_, by simp⟩
  rcases List.mem_append.mp hg with hg | hg
  · exact hfs g hg
  · rw [List.mem_singleton.mp hg]; exact hf

theorem txWhole_iff {s : State} : s.txWhole ↔ ∃ bs, WholeFrames bs ∧ s.tx = bs ++ sentPart s :=
  ⟨fun ⟨fs, hfs, htx⟩ => ⟨_, ⟨fs, hfs, rfl⟩, htx⟩, fun ⟨_, ⟨fs, hfs, hbs⟩, htx⟩ => ⟨fs, hfs, hbs ▸ htx⟩⟩

/-- With no frame being sent, `TX` is whole frames. -/
theorem txWhole_iff_of_not_sending {s : State} (h : s.em.state = .idle ∨ s.em.send = false) :
    s.txWhole ↔ WholeFrames s.tx := by
  have hnone : sentPart s = [] := by
    unfold sentPart encActive
    rcases h with h | h <;> simp [h]
  rw [txWhole_iff, hnone]
  simp only [List.append_nil]
  exact ⟨fun ⟨bs, hbs, htx⟩ => htx ▸ hbs, fun h => ⟨_, h, rfl⟩⟩

/-- While a frame is being sent, `TX` is whole frames and its first bytes. -/
theorem txWhole_iff_of_sending {s : State} (h : Encoding s) (hsend : s.em.send = true) :
    s.txWhole ↔ ∃ bs, WholeFrames bs ∧ s.tx = bs ++ (encFrame s).take s.enc.flen.toNat := by
  have hactive : (s.em.state != .idle) = true := bne_iff_ne.mpr h.active
  have hlen : ((encFrame s).take s.enc.flen.toNat).length = s.enc.flen.toNat := by
    have := encPos_lt h.idx
    exact List.length_take_of_le (by rw [encFrame_length, h.pos]; omega)
  have hbytes := bufferBytes_eq (m := s.enc.fbuf) ((encFrame s).take s.enc.flen.toNat) fun i hi => by
    rw [hlen] at hi
    rw [h.bytes i hi, List.getElem?_take_of_lt hi]
  rw [hlen] at hbytes
  have hpart : sentPart s = (encFrame s).take s.enc.flen.toNat := by
    unfold sentPart encActive
    rw [hactive, hsend]
    exact hbytes
  rw [txWhole_iff, hpart]

theorem Between.wholeFrames {s t : State} (h : Between s t) (hs : WholeFrames s.tx) : WholeFrames t.tx := by
  induction h with
  | refl => exact hs
  | answer _ ih => rw [drawConnect_tx]; exact ih
  | noFrameBuilt k _ ih => exact ih
  | built hf _ ih => exact ih
  | sent hf _ ih => exact ih.append hf
  | _ => assumption

/-- An encoder step sends the frame's next byte, or none. -/
theorem txWhole_encStep {s t : State} (hs : s.layout = true) (hc : s.contents = true) (htx : s.txWhole)
    (he : s.em.state ≠ .idle) (h : encStep s = .next t) : t.txWhole := by
  obtain ⟨hrun, -⟩ := (contents_iff_enc hs he).mp hc
  obtain ⟨-, -, -, hsend', -, -⟩ := rowMachine_keeps (rowByte s) s.em
  have hsucc : (encFrame s).take (s.enc.flen.toNat + 1) = (encFrame s).take s.enc.flen.toNat ++ [rowByte s] := by
    rw [List.take_add_one, hrun.rowByte_eq]; rfl
  obtain ⟨hroom, hcase⟩ := encStep_next he h
  rcases s.em.send.eq_false_or_eq_true with hsend | hsend
  · obtain ⟨bs, hbs, htx⟩ := (txWhole_iff_of_sending hrun hsend).mp htx
    have hsent : ∀ b, (emitted b s).tx = s.tx ++ [b] := fun b => if_pos hsend
    rcases hcase with ⟨hne, rfl⟩ | ⟨hfin, rfl⟩
    · refine (txWhole_iff_of_sending (hrun.rowStep hne) (hsend'.trans hsend)).mpr ⟨bs, hbs, ?_⟩
      rw [(rowStep_frame s).1, show (rowStep s).enc.flen.toNat = s.enc.flen.toNat + 1 from emitted_flen_toNat hroom _,
        hsucc, ← List.append_assoc, ← htx]
      exact hsent _
    · obtain ⟨-, htx', -, -, -, hem'⟩ := encDone_keeps (emitted 0x0A#8 s)
      have hlast : rowByte s = 0x0A#8 := by simp [rowByte, hfin]
      have hwhole : (encFrame s).take (s.enc.flen.toNat + 1) = encFrame s :=
        List.take_of_length_le (by rw [encFrame_length, hrun.pos]; simp [encPos, hfin]; omega)
      refine (txWhole_iff_of_not_sending (.inl (by rw [hem']))).mpr ?_
      rw [htx', hsent, htx, List.append_assoc, ← hlast, ← hsucc, hwhole]
      exact hbs.append (hrun.encTrue hfin).2
  · have hbs := (txWhole_iff_of_not_sending (.inr hsend)).mp htx
    have hkept : ∀ b, (emitted b s).tx = s.tx := fun b => if_neg (by simp [hsend])
    rcases hcase with ⟨hne, rfl⟩ | ⟨hfin, rfl⟩
    · refine (txWhole_iff_of_not_sending (.inr (hsend'.trans hsend))).mpr ?_
      rw [show (rowStep s).tx = s.tx from hkept _]
      exact hbs
    · obtain ⟨-, htx', -, -, -, hem'⟩ := encDone_keeps (emitted 0x0A#8 s)
      refine (txWhole_iff_of_not_sending (.inl (by rw [hem']))).mpr ?_
      rw [htx', hkept]
      exact hbs

/-- A decoder step sends nothing, and leaves the encoder where it is. -/
theorem decStep_keeps {s t : State} (h : decStep s = .next t) : t.tx = s.tx ∧ t.em = s.em := by
  obtain ⟨-, ⟨r, rfl⟩ | ⟨b, r, hbyte⟩⟩ := decStep_next h
  · exact ⟨rfl, rfl⟩
  · rcases decByte_next hbyte with ⟨-, rfl⟩ | ⟨-, rfl | rfl⟩ | ⟨-, rfl⟩ | ⟨-, hbody⟩
    any_goals exact ⟨rfl, rfl⟩
    unfold decBody at hbody
    dsimp only at hbody
    split at hbody
    · cases hbody
      split <;> exact ⟨rfl, rfl⟩
    · cases hbody

theorem Effect.txWhole {s t : State} (h : Effect s t) (hs : s.layout = true) (hc : s.contents = true)
    (htx : s.txWhole) : t.txWhole := by
  have hidle (hb : s.busy = false) {u : State} (h : Between s u) : WholeFrames u.tx ∧ u.em.state = .idle := by
    obtain ⟨he, -, -, -⟩ := (layout_iff_idle hb).mp hs
    exact ⟨h.wholeFrames ((txWhole_iff_of_not_sending (.inl he)).mp htx), h.machines.2.1 ▸ he⟩
  cases h with
  | outside h =>
    have hpart : sentPart t = sentPart s := by rw [h.same]; rfl
    have hkept : t.tx = s.tx := by rw [h.same]
    rw [txWhole_iff, hpart, hkept]
    exact txWhole_iff.mp htx
  | reset => exact (txWhole_iff_of_not_sending (.inl rfl)).mpr ⟨[], by simp, rfl⟩
  | between hb h =>
    obtain ⟨hw, he⟩ := hidle hb h
    exact (txWhole_iff_of_not_sending (.inl he)).mpr hw
  | hangs hb h hl hne hn =>
    obtain ⟨hw, he⟩ := hidle hb h
    exact (txWhole_iff_of_not_sending (.inl he)).mpr hw
  | startsEncoder hb h hm =>
    obtain ⟨hw, -⟩ := hidle hb h
    refine txWhole_iff.mpr ⟨_, hw, ?_⟩
    unfold sentPart
    split <;> exact (List.append_nil _).symm
  | startsDecoder hb h hl =>
    obtain ⟨hw, he⟩ := hidle hb h
    exact (txWhole_iff_of_not_sending (.inl he)).mpr hw
  | encodes he h => exact txWhole_encStep hs hc htx he h
  | decodes he hd h =>
    obtain ⟨hkept, hem⟩ := decStep_keeps h
    rw [txWhole_iff_of_not_sending (.inl (hem ▸ he)), hkept]
    exact (txWhole_iff_of_not_sending (.inl he)).mp htx

/-- Settles O52: whatever effect the step has. -/
theorem stepKeepsTxWholeFrames : Obligations.StepKeepsTxWholeFrames := by
  unfold Obligations.StepKeepsTxWholeFrames
  intro s t hs hc htx h
  obtain ⟨rest, he⟩ := step_effect h
  exact he.txWhole hs hc htx

/-- Settles O53: the contents are computed, and no frame has been sent. -/
theorem resetHasContentsAndNothingSent : Obligations.ResetHasContentsAndNothingSent := by
  unfold Obligations.ResetHasContentsAndNothingSent
  exact ⟨rfl, [], by simp, rfl⟩

end Sys2Proof.Machine

/-! # The host operations carried out whole (42_session_ops.md, 60_exceptions.md) -/

namespace Sys2Proof.Machine

/-! ## RECV and XFER (R120, R121) -/

/-- What RECV can change, whatever the link and the receive stream are. -/
theorem recvOp_frame (s : State) :
    recvOp s = { s with
      rx := (recvOp s).rx
      dec := (recvOp s).dec
      status := (recvOp s).status
      busy := (recvOp s).busy
      dm := (recvOp s).dm } := by
  rcases s.linkOpen.eq_false_or_eq_true with hl | hl
  · unfold recvOp
    rw [if_pos hl]
    rcases s.rx.decode with ⟨_ | _ | _, r⟩ <;> rfl
  · rw [recvOp_closed hl]; rfl

/-- RECV where `decode` comes to a frame. -/
theorem recvOp_received {s : State} {f : Frame} {r : RxStream} (hl : s.linkOpen = true)
    (h : s.rx.decode = (.frame f, r)) : recvOp s = setStatus 0#3 (setDec (receivedRegs f) (setRx r s)) := by
  unfold recvOp
  rw [if_pos hl, h]; rfl

/-- RECV where `decode` comes to an error. -/
theorem recvOp_error {s : State} {k : ErrorKind} {r : RxStream} (hl : s.linkOpen = true)
    (h : s.rx.decode = (.error k, r)) : recvOp s = setStatus k.code (setDec (noFrame []) (setRx r s)) := by
  unfold recvOp
  rw [if_pos hl, h]; rfl

/-- RECV where `decode` does not return. -/
theorem recvOp_hangs {s : State} {d : DState} {r : RxStream} (hl : s.linkOpen = true)
    (h : s.rx.decode = (.hangs d, r)) : recvOp s = hangAt d (setRx r s) := by
  unfold recvOp
  rw [if_pos hl, h]

/-- A sent command leaves `sentState`, but for the model's own record of a host fault. -/
theorem afterSend_eq (s : State) :
    afterSend s = { sentState (sendFrame s) s with hostFault := s.hostFault || readsUnwritten false s } := rfl

/-- Settles O8: by the link. -/
theorem recvStoresWhatDecodeGives : Obligations.RecvStoresWhatDecodeGives := by
  unfold Obligations.RecvStoresWhatDecodeGives
  intro s hb
  refine ⟨recvOp s, whenIdle_idle hb, fun hl => ?_, recvOp_receives⟩
  rw [recvOp_closed hl]
  exact ⟨holdsNoFrame_empty, rfl⟩

/-- A SEND that fails says so in `STATUS`. -/
theorem sendOp_failed_status {s : State} (h : 253 < (samplePlen s).toNat ∨ s.linkOpen = false) :
    (253 < (samplePlen s).toNat ∧ (sendOp s).status = 4#3) ∨
      ((samplePlen s).toNat ≤ 253 ∧ s.linkOpen = false ∧ (sendOp s).status = 1#3) := by
  rcases Nat.lt_or_ge 253 (samplePlen s).toNat with hp | hp
  · exact .inl ⟨hp, by rw [sendOp_tooLong hp]; rfl⟩
  · have hl := h.resolve_left (Nat.not_lt.mpr hp)
    exact .inr ⟨hp, hl, by rw [sendOp_closed hp hl]; rfl⟩

/-- Settles O9: XFER is SEND where that fails, and else the RECV of what it leaves. -/
theorem xferSendsThenReceives : Obligations.XferSendsThenReceives := by
  unfold Obligations.XferSendsThenReceives
  intro s hb
  refine ⟨xferOp s, whenIdle_idle hb, fun hfail => ⟨?_, ?_⟩, fun hp hl => ?_⟩
  · rw [xferOp_failed hfail]
    exact whenIdle_idle hb
  · rw [xferOp_failed hfail]
    rcases sendOp_failed_status hfail with ⟨-, hst⟩ | ⟨-, -, hst⟩ <;> rw [hst] <;> decide
  · have hfault : (xferOp s).hostFault = (s.hostFault || readsUnwritten false s) := by
      rw [xferOp_sent hp hl, recvOp_frame]; rfl
    have hreceives := recvOp_receives (s := afterSend s) hl
    rw [← xferOp_sent hp hl, afterSend_eq, ← hfault] at hreceives
    exact hreceives

/-- Settles O10: the payload is judged before the link (R186). -/
theorem tooLongPayloadOnClosedLinkIsInvalidArgument : Obligations.TooLongPayloadOnClosedLinkIsInvalidArgument := by
  unfold Obligations.TooLongPayloadOnClosedLinkIsInvalidArgument
  intro s hb _ hp
  refine ⟨sendOp s, xferOp s, whenIdle_idle hb, whenIdle_idle hb, ?_, ?_⟩
  · rw [sendOp_tooLong hp]; rfl
  · rw [xferOp_failed (.inl hp), sendOp_tooLong hp]; rfl

/-- The eight operations, each with its body. -/
theorem exec_hostOp {i : Instr}
    (h : i ∈ [Instr.reserved0, .connect, .disconnect, .enc, .send, .recv, .xfer, .reserved7]) (s : State) :
    ((i = .reserved0 ∨ i = .reserved7) ∧ exec i s = whenIdle reservedOp s) ∨
    (i = .connect ∧ exec i s = whenIdle connectOp s) ∨ (i = .disconnect ∧ exec i s = whenIdle disconnectOp s) ∨
    (i = .enc ∧ exec i s = whenIdle encOp s) ∨ (i = .send ∧ exec i s = whenIdle sendOp s) ∨
    (i = .recv ∧ exec i s = whenIdle recvOp s) ∨ (i = .xfer ∧ exec i s = whenIdle xferOp s) := by
  simp only [List.mem_cons, List.not_mem_nil, or_false] at h
  rcases h with rfl | rfl | rfl | rfl | rfl | rfl | rfl | rfl
  · exact .inl ⟨.inl rfl, rfl⟩
  · exact .inr (.inl ⟨rfl, rfl⟩)
  · exact .inr (.inr (.inl ⟨rfl, rfl⟩))
  · exact .inr (.inr (.inr (.inl ⟨rfl, rfl⟩)))
  · exact .inr (.inr (.inr (.inr (.inl ⟨rfl, rfl⟩))))
  · exact .inr (.inr (.inr (.inr (.inr (.inl ⟨rfl, rfl⟩)))))
  · exact .inr (.inr (.inr (.inr (.inr (.inr ⟨rfl, rfl⟩)))))
  · exact .inl ⟨.inr rfl, rfl⟩

/-- Settles O11: each operation is one that waits for `BUSY = 0`. -/
theorem issueWhileBusyIsIgnored : Obligations.IssueWhileBusyIsIgnored := by
  unfold Obligations.IssueWhileBusyIsIgnored
  intro s hb i hi
  rcases exec_hostOp hi s with ⟨-, h⟩ | ⟨-, h⟩ | ⟨-, h⟩ | ⟨-, h⟩ | ⟨-, h⟩ | ⟨-, h⟩ | ⟨-, h⟩ <;>
    exact h.trans (whenIdle_busy hb)

/-! ## What an error leaves alone (R187) -/

/-- What R187 says of an operation that ended with an error. -/
structure ErrorKeeps (i : Instr) (s t : State) : Prop where
  link : t.linkOpen = s.linkOpen
  opr : t.opr = s.opr
  em : t.em = s.em
  dm : t.dm = s.dm
  session : t.status = 1#3 ∨ t.status = 4#3 → t.seq = s.seq ∧ t.tx = s.tx ∧ t.rx = s.rx
  decode : t.status = 2#3 ∨ t.status = 3#3 → (i = .recv ∨ i = .xfer) ∧ holdsNoFrame t.dec
  dec : i ≠ .recv → t.status = 1#3 ∨ t.status = 4#3 → t.dec = s.dec
  enc : i ≠ .enc → i ≠ .send → i ≠ .xfer → t.enc = s.enc

/-- An operation that fails before any `decode` changes `FBUF` and `STATUS` only, and `FBUF` only where it encodes. -/
theorem errorKeeps_of_early {i : Instr} {s t : State}
    (h : t = { s with enc := t.enc, status := t.status, env := t.env, hostFault := t.hostFault })
    (hst : t.status = 1#3 ∨ t.status = 4#3) (henc : t.enc = s.enc ∨ i = .enc ∨ i = .send ∨ i = .xfer) :
    ErrorKeeps i s t where
  link := by rw [h]
  opr := by rw [h]
  em := by rw [h]
  dm := by rw [h]
  session := fun _ => by rw [h]; exact ⟨rfl, rfl, rfl⟩
  decode := fun h' => by rcases hst with hst | hst <;> simp [hst] at h'
  dec := fun _ _ => by rw [h]
  enc := fun h1 h2 h3 => by simpa [h1, h2, h3] using henc

/-- A failed `decode` says so, and leaves no frame. -/
theorem errorKeeps_of_decode {i : Instr} {s u : State} {k : ErrorKind} {r : RxStream} (hi : i = .recv ∨ i = .xfer)
    (hk : k = .badHeader ∨ k = .truncated)
    (hu : u = { s with enc := u.enc, tx := u.tx, seq := u.seq, hostFault := u.hostFault })
    (henc : i = .recv → u.enc = s.enc) :
    ErrorKeeps i s (setStatus k.code (setDec (noFrame []) (setRx r u))) where
  link := by rw [hu]; rfl
  opr := by rw [hu]; rfl
  em := by rw [hu]; rfl
  dm := by rw [hu]; rfl
  session := fun h => by rcases hk with rfl | rfl <;> simp [ErrorKind.code] at h
  decode := fun _ => ⟨hi, holdsNoFrame_empty⟩
  dec := fun _ h => by rcases hk with rfl | rfl <;> simp [ErrorKind.code] at h
  enc := fun _ _ h3 => henc (hi.resolve_right h3)

theorem errorKeeps_connectOp {s : State} (hst : (connectOp s).status ≠ 0#3) : ErrorKeeps .connect s (connectOp s) := by
  rcases s.linkOpen.eq_false_or_eq_true with hl | hl
  · rw [connectOp_open hl] at hst
    exact absurd rfl hst
  · rw [connectOp_closed hl] at hst ⊢
    cases hok : (drawConnect s).1 with
    | true => rw [hok] at hst; exact absurd rfl hst
    | false =>
      have hdraw : (drawConnect s).2 = { s with env := (drawConnect s).2.env } := by unfold drawConnect; split <;> rfl
      have hstays := setLink_of_linkOpen_eq ((drawConnect_linkOpen s).trans hl)
      rw [hstays, hdraw]
      exact errorKeeps_of_early rfl (.inl rfl) (.inl rfl)

/-- RECV after the updates a SEND makes, or after none, where `decode` returns an error. -/
theorem errorKeeps_recvOp {i : Instr} {s u : State} (hi : i = .recv ∨ i = .xfer) (hl : u.linkOpen = true)
    (hu : u = { s with enc := u.enc, tx := u.tx, seq := u.seq, hostFault := u.hostFault })
    (henc : i = .recv → u.enc = s.enc) (hb : (recvOp u).busy = false) (hst : (recvOp u).status ≠ 0#3) :
    ErrorKeeps i s (recvOp u) := by
  rcases hd : u.rx.decode with ⟨o, r⟩
  rcases RxStream.decode_cases hd with ⟨f, rfl, -⟩ | ⟨rfl, -⟩ | ⟨rfl, -⟩ | ⟨d, rfl, -⟩
  · rw [recvOp_received hl hd] at hst
    exact absurd rfl hst
  · rw [recvOp_error hl hd]
    exact errorKeeps_of_decode hi (.inl rfl) hu henc
  · rw [recvOp_error hl hd]
    exact errorKeeps_of_decode hi (.inr rfl) hu henc
  · rw [recvOp_hangs hl hd] at hb
    cases hb

theorem errorKeeps_sendOp {i : Instr} {s : State} (hi : i = .send ∨ i = .xfer)
    (hfail : 253 < (samplePlen s).toNat ∨ s.linkOpen = false) : ErrorKeeps i s (sendOp s) := by
  have hst : (sendOp s).status = 1#3 ∨ (sendOp s).status = 4#3 :=
    (sendOp_failed_status hfail).symm.imp (fun h => h.2.2) (fun h => h.2)
  refine errorKeeps_of_early ?_ hst (.inr (.inr hi))
  rcases Nat.lt_or_ge 253 (samplePlen s).toNat with hp | hp
  · rw [sendOp_tooLong hp]; rfl
  · rw [sendOp_closed hp (hfail.resolve_left (Nat.not_lt.mpr hp))]; rfl

/-- Settles O12: by the operation, and by where it fails. -/
theorem errorsChangeOnlyWhatTheyList : Obligations.ErrorsChangeOnlyWhatTheyList := by
  unfold Obligations.ErrorsChangeOnlyWhatTheyList
  intro s t hb i hi h htb hst
  suffices hkeeps : ErrorKeeps i s t from
    ⟨hkeeps.link, hkeeps.opr, hkeeps.em, hkeeps.dm, hkeeps.session, hkeeps.decode, hkeeps.dec, hkeeps.enc⟩
  rcases exec_hostOp hi s with ⟨-, he⟩ | ⟨rfl, he⟩ | ⟨rfl, he⟩ | ⟨rfl, he⟩ | ⟨rfl, he⟩ | ⟨rfl, he⟩ | ⟨rfl, he⟩ <;>
    rw [he, whenIdle_idle hb] at h <;> cases h
  · exact errorKeeps_of_early rfl (.inr rfl) (.inl rfl)
  · exact errorKeeps_connectOp hst
  · exact absurd rfl hst
  · refine errorKeeps_of_early (by rw [encOp_frame]) ?_ (.inr (.inl rfl))
    rcases Nat.lt_or_ge 253 (samplePlen s).toNat with hp | hp
    · rw [encOp_tooLong hp]; exact .inr rfl
    · rw [encOp_built hp] at hst; exact absurd rfl hst
  · by_cases hfail : 253 < (samplePlen s).toNat ∨ s.linkOpen = false
    · exact errorKeeps_sendOp (.inl rfl) hfail
    · simp only [not_or, Nat.not_lt, Bool.not_eq_false] at hfail
      rw [sendOp_sent hfail.1 hfail.2] at hst
      exact absurd rfl hst
  · rcases s.linkOpen.eq_false_or_eq_true with hl | hl
    · exact errorKeeps_recvOp (.inl rfl) hl rfl (fun _ => rfl) htb hst
    · rw [recvOp_closed hl]
      exact ⟨rfl, rfl, rfl, rfl, fun _ => ⟨rfl, rfl, rfl⟩, by simp, fun hne => absurd rfl hne, fun _ _ _ => rfl⟩
  · by_cases hfail : 253 < (samplePlen s).toNat ∨ s.linkOpen = false
    · rw [xferOp_failed hfail]
      exact errorKeeps_sendOp (.inr rfl) hfail
    · simp only [not_or, Nat.not_lt, Bool.not_eq_false] at hfail
      rw [xferOp_sent hfail.1 hfail.2] at htb hst ⊢
      exact errorKeeps_recvOp (.inr rfl) hfail.2 rfl (by simp) htb hst

/-! ## DISCONNECT (R117) -/

/-- On a closed link every operation completes, and only a CONNECT that succeeds opens the link. -/
theorem exec_linkClosed {i : Instr} {s t : State} (h : exec i s = .next t) (hb : s.busy = false)
    (hl : s.linkOpen = false) : t.busy = false ∧ (i ≠ .connect → t.linkOpen = false) := by
  cases exec_cases h with
  | ignored | waits | reserved => exact ⟨hb, fun _ => hl⟩
  | disconnect => exact ⟨hb, fun _ => rfl⟩
  | connect => exact ⟨by rw [connectOp_closed hl]; simp [hb], fun hne => absurd rfl hne⟩
  | enc _ o => exact ⟨by rw [encOp_frame]; exact hb, fun _ => by rw [encOp_frame]; exact hl⟩
  | send _ o => exact ⟨by rw [sendOp_frame]; exact hb, fun _ => by rw [sendOp_frame]; exact hl⟩
  | xfer _ o =>
    rw [xferOp_failed (s := setOpr o s) (.inr hl)]
    exact ⟨by rw [sendOp_frame]; exact hb, fun _ => by rw [sendOp_frame]; exact hl⟩
  | recv _ o l => rw [recvOp_closed (s := setOpr o (deliver l s)) hl]; exact ⟨hb, fun _ => hl⟩

/-- Through operations whose CONNECTs all leave the link closed, a closed link stays closed. -/
theorem runOps_linkClosed {is : List Instr} {t u : State} (hb : t.busy = false) (hl : t.linkOpen = false)
    (hrun : runOps is t = some u)
    (hconnect : ∀ k v, is[k]? = some .connect → runOps (is.take (k + 1)) t = some v → v.linkOpen = false) :
    u.busy = false ∧ u.linkOpen = false := by
  induction is generalizing t with
  | nil => cases hrun; exact ⟨hb, hl⟩
  | cons i is ih =>
    simp only [runOps] at hrun
    split at hrun
    · next t1 h1 =>
      obtain ⟨hb1, hl1⟩ := exec_linkClosed h1 hb hl
      have hl1 : t1.linkOpen = false := by
        by_cases hi : i = .connect
        · exact hconnect 0 t1 (by rw [hi]; rfl) (by simp [runOps, h1])
        · exact hl1 hi
      exact ih hb1 hl1 hrun fun k v hk hv => hconnect (k + 1) v hk (by simpa [runOps, h1] using hv)
    · cases hrun
    · cases hrun

/-- On a closed link SEND, RECV and XFER report `TransportNotOpen`, or the payload before it. -/
theorem status_of_linkClosed {u : State} (hb : u.busy = false) (hl : u.linkOpen = false) {i : Instr}
    (hi : i ∈ [Instr.send, .recv, .xfer]) :
    ∃ v, exec i u = .next v ∧ (v.status = 1#3 ∨ (v.status = 4#3 ∧ i ≠ .recv ∧ 253 < (samplePlen u).toNat)) := by
  have hsend := sendOp_failed_status (s := u) (.inr hl)
  simp only [List.mem_cons, List.not_mem_nil, or_false] at hi
  rcases hi with rfl | rfl | rfl
  · refine ⟨sendOp u, whenIdle_idle hb, ?_⟩
    exact hsend.symm.imp (fun h => h.2.2) fun h => ⟨h.2, by simp, h.1⟩
  · refine ⟨recvOp u, whenIdle_idle hb, .inl ?_⟩
    rw [recvOp_closed hl]; rfl
  · refine ⟨xferOp u, whenIdle_idle hb, ?_⟩
    rw [xferOp_failed (.inr hl)]
    exact hsend.symm.imp (fun h => h.2.2) fun h => ⟨h.2, by simp, h.1⟩

/-- Settles O5: the link stays closed, and on a closed link the reports are known. -/
theorem disconnectReleasesTransport : Obligations.DisconnectReleasesTransport := by
  unfold Obligations.DisconnectReleasesTransport
  intro s hb
  refine ⟨disconnectOp s, whenIdle_idle hb, rfl, fun is u hrun hconnect i hi => ?_⟩
  obtain ⟨hub, hul⟩ := runOps_linkClosed (t := disconnectOp s) hb rfl hrun hconnect
  exact status_of_linkClosed hub hul hi

/-! ## RECV on what stands fixed in the stream (R120, R185) -/

/-- Settles O28: `decode` comes to the frame (R100), whatever its bytes are. -/
theorem recvDeliversWhateverFollowsTheMarker : Obligations.RecvDeliversWhateverFollowsTheMarker := by
  unfold Obligations.RecvDeliversWhateverFollowsTheMarker
  intro s l t rest hb hl ht hahead
  have hdecode : s.rx.decode = (.frame ⟨l, t⟩, ⟨s.rx.pos + l.toNat + 6, rest, s.rx.draws⟩) := by
    rw [← RxStream.decode_frame s.rx.pos s.rx.draws rest ht, ← hahead]
  refine ⟨recvOp s, whenIdle_idle hb, ?_⟩
  rw [recvOp_received hl hdecode]
  exact ⟨rfl, holdsReceived_ofBytes (f := ⟨l, t⟩) ht, rfl, rfl⟩

/-- What RECV leaves in the stream, the decoder result registers and `STATUS` depends on the stream alone, where it
completes. -/
theorem recvOp_depends_on_rx {s s' : State} (hl : s.linkOpen = true) (hl' : s'.linkOpen = true) (hrx : s.rx = s'.rx)
    (hb : s.busy = false) (hb' : (recvOp s').busy = false) :
    (recvOp s).rx = (recvOp s').rx ∧ (recvOp s).dec = (recvOp s').dec ∧ (recvOp s).status = (recvOp s').status ∧
      (recvOp s).busy = false := by
  rcases hd : s'.rx.decode with ⟨f | k | d, r⟩
  · rw [recvOp_received hl (hrx ▸ hd), recvOp_received hl' hd]; exact ⟨rfl, rfl, rfl, hb⟩
  · rw [recvOp_error hl (hrx ▸ hd), recvOp_error hl' hd]; exact ⟨rfl, rfl, rfl, hb⟩
  · rw [recvOp_hangs hl' hd] at hb'; cases hb'

/-- Settles O29: the XFER is the RECV of a state with the same stream. -/
theorem receptionIgnoresWhatWasSent : Obligations.ReceptionIgnoresWhatWasSent := by
  unfold Obligations.ReceptionIgnoresWhatWasSent
  intro s s' t t' hb hb' hl hl' hrx hp h h' htb'
  obtain rfl : xferOp s = t := Host.Outcome.next.inj ((whenIdle_idle hb).symm.trans h)
  obtain rfl : recvOp s' = t' := Host.Outcome.next.inj ((whenIdle_idle hb').symm.trans h')
  rw [xferOp_sent hp hl]
  exact recvOp_depends_on_rx (s := afterSend s) hl hl' hrx hb htb'

/-! ## Reads that never return (R42, R218) -/

/-- `decode` waits at once where the next item is `Never`. -/
theorem RxStream.decode_never (p d : Nat) (rest : List RxItem) :
    RxStream.decode ⟨p, .never :: rest, d⟩ = (.hangs .hdr0, ⟨p, .never :: rest, d⟩) := rfl

/-- Settles O30: the command is sent, and `decode` waits at once. -/
theorem xferOnNeverStaysBusy : Obligations.XferOnNeverStaysBusy := by
  unfold Obligations.XferOnNeverStaysBusy
  intro s rest hb he hl hp hahead hin
  have hrx : s.rx = ⟨s.rx.pos, .never :: rest, s.rx.draws⟩ := by rw [← hahead]
  have hdecode : (afterSend s).rx.decode = (.hangs .hdr0, s.rx) := by
    rw [show (afterSend s).rx = s.rx from rfl, hrx, RxStream.decode_never]
  have hop : xferOp s = hangAt .hdr0 (setRx s.rx (afterSend s)) := by
    rw [xferOp_sent hp hl, recvOp_hangs (s := afterSend s) hl hdecode]
  refine ⟨_, (whenIdle_idle hb).trans (congrArg _ hop), rfl, rfl, rfl, rfl, rfl, ?_⟩
  have hhung : (hangAt .hdr0 (setRx s.rx (afterSend s))).hung = true :=
    hung_iff.mpr ⟨rfl, he, by simp, by simp [nextIsNever, hahead]⟩
  rw [step_of_no_input (s := hangAt .hdr0 (setRx s.rx (afterSend s))) hin rfl, machineStep_of_hung hhung]

/-- An instruction carried out whole leaves a state in which a read never returns as it is, but for items delivered. -/
theorem SameInside.of_exec_busy {i : Instr} {s t : State} (h : exec i s = .next t) (hb : s.busy = true) :
    SameInside s t := by
  cases exec_cases h with
  | ignored => exact .refl s
  | waits _ l => exact .deliver l s
  | _ => next hidle => rw [hb] at hidle; cases hidle

theorem SameInside.of_presentStep_busy {w : HostWord} {s t : State} (h : presentStep w s = .next t)
    (hb : s.busy = true) : SameInside s t := by
  unfold presentStep at h
  split at h
  · split at h
    · rw [receiveBytes, receiveItems_eq, hb] at h
      cases h
      exact .deliver _ s
    · cases h
  · rw [show latchOp w _ s = s from if_neg (by simp [hb])] at h
    exact .of_exec_busy h hb

theorem SameInside.hung {s t : State} (h : SameInside s t) (hs : s.hung = true) :
    t.hung = true ∧ t.status = s.status := by
  obtain ⟨hb, he, hd, hn⟩ := hung_iff.mp hs
  refine ⟨hung_iff.mpr ⟨?_, ?_, ?_, h.never hn⟩, ?_⟩ <;> rw [h.same] <;> assumption

/-- Settles O31: no machine has a step and no operation is idle, so a step changes what stands outside the block. -/
theorem onlyResetLeavesAReadThatNeverReturns : Obligations.OnlyResetLeavesAReadThatNeverReturns := by
  unfold Obligations.OnlyResetLeavesAReadThatNeverReturns
  intro s t hs h
  have hb : s.busy = true := (hung_iff.mp hs).1
  cases step_takes h with
  | reset rest hin => exact .inl ⟨rest, hin⟩
  | present w rest hin h =>
    exact .inr ((SameInside.of_presentStep_busy h hb).hung (s := dropInput rest s) hs)
  | presentSerial op rest hin hidle => rw [hb] at hidle; cases hidle
  | write w rest hidle h => rw [hb] at hidle; cases hidle
  | machine rest _ h => rw [machineStep_of_hung (s := dropInput rest s) hs] at h; cases h
  | outside rest h => exact .inr (h.hung (s := dropInput rest s) hs)

/-! ## The link (R11) -/

theorem exec_linkOpen {i : Instr} {s t : State} (h : exec i s = .next t) (hc : i ≠ .connect) (hd : i ≠ .disconnect) :
    t.linkOpen = s.linkOpen := by
  have hrecv (u : State) : (recvOp u).linkOpen = u.linkOpen := by rw [recvOp_frame]
  have hsend (u : State) : (sendOp u).linkOpen = u.linkOpen := by rw [sendOp_frame]
  cases exec_cases h with
  | ignored | waits | reserved => rfl
  | connect => exact absurd rfl hc
  | disconnect => exact absurd rfl hd
  | enc _ o => rw [encOp_frame]; rfl
  | send _ o => exact hsend _
  | recv _ o l => exact hrecv _
  | xfer _ o =>
    by_cases hfail : 253 < (samplePlen (setOpr o s)).toNat ∨ (setOpr o s).linkOpen = false
    · rw [xferOp_failed hfail]; exact hsend _
    · simp only [not_or, Nat.not_lt, Bool.not_eq_false] at hfail
      rw [xferOp_sent hfail.1 hfail.2]; exact hrecv _

theorem issueSerial_linkOpen {op : BitVec 3} {s : State} (hc : op ≠ 1#3) (hd : op ≠ 2#3) :
    (issueSerial op s).linkOpen = s.linkOpen := by
  have henc (b x : Bool) : (issueEncode b x s).linkOpen = s.linkOpen := by
    unfold issueEncode; dsimp only; split <;> rfl
  have hdec : (issueDecode s).linkOpen = s.linkOpen := by unfold issueDecode; dsimp only; split <;> rfl
  have hcodes : op = 0#3 ∨ op = 3#3 ∨ op = 4#3 ∨ op = 5#3 ∨ op = 6#3 ∨ op = 7#3 := by
    revert hc hd; revert op; decide
  rcases hcodes with rfl | rfl | rfl | rfl | rfl | rfl
  · rfl
  · exact henc _ _
  · exact henc _ _
  · exact hdec
  · exact henc _ _
  · rfl

theorem encDone_linkOpen (s : State) : (encDone s).linkOpen = s.linkOpen := (encDone_keeps s).2.2.2.1

theorem machineStep_linkOpen {s t : State} (h : machineStep s = .next t) : t.linkOpen = s.linkOpen := by
  by_cases he : s.em.state = .idle
  · by_cases hd : s.dm.state = .idle
    · unfold machineStep at h
      rw [if_pos he, if_pos hd] at h
      cases h
    · rw [machineStep_dec he hd] at h
      obtain ⟨-, ⟨r, rfl⟩ | ⟨b, r, hbyte⟩⟩ := decStep_next h
      · rfl
      · rcases decByte_next hbyte with ⟨-, rfl⟩ | ⟨-, rfl | rfl⟩ | ⟨-, rfl⟩ | ⟨-, hbody⟩
        any_goals rfl
        unfold decBody at hbody
        dsimp only at hbody
        split at hbody
        · cases hbody
          split <;> rfl
        · cases hbody
  · rw [machineStep_enc he] at h
    obtain ⟨-, ⟨-, rfl⟩ | ⟨-, rfl⟩⟩ := encStep_next he h
    · rfl
    · rw [encDone_linkOpen]; rfl

/-- Bytes the transport delivers, whatever they are, leave the link alone. -/
theorem receiveItems_linkOpen {items : List RxItem} {s t : State} (h : receiveItems items s = .next t) :
    t.linkOpen = s.linkOpen := by
  rw [receiveItems_eq] at h
  cases h
  split
  · rfl
  · rw [recvOp_frame]; rfl

theorem latchOp_linkOpen (w : HostWord) (i : Instr) (s : State) : (latchOp w i s).linkOpen = s.linkOpen := by
  unfold latchOp; split <;> rfl

/-- Settles O32: by what the step takes. -/
theorem linkChangesOnlyByConnectDisconnectReset : Obligations.LinkChangesOnlyByConnectDisconnectReset := by
  unfold Obligations.LinkChangesOnlyByConnectDisconnectReset
  intro s t h hne
  cases step_takes h with
  | reset rest hin => exact .inl ⟨rest, hin⟩
  | present w rest hin h =>
    unfold presentStep at h
    split at h
    · split at h
      · exact absurd (receiveItems_linkOpen h) hne
      · cases h
    · next i hw =>
      by_cases hi : i = .connect ∨ i = .disconnect
      · refine .inr (.inl ⟨w, rest, hin, ?_⟩)
        rcases hi with rfl | rfl
        · exact .inl hw
        · exact .inr hw
      · rw [not_or] at hi
        exact absurd ((exec_linkOpen h hi.1 hi.2).trans (latchOp_linkOpen w i _)) hne
  | presentSerial op rest hin hb =>
    by_cases hop : op = 1#3 ∨ op = 2#3
    · exact .inr (.inr ⟨op, rest, hin, hop⟩)
    · rw [not_or] at hop
      exact absurd (issueSerial_linkOpen hop.1 hop.2) hne
  | write w rest hb h =>
    obtain ⟨o, rfl⟩ := writeOperand_next h
    exact absurd rfl hne
  | machine rest hb h => exact absurd (machineStep_linkOpen h) hne
  | outside rest h => exact absurd (by rw [h.same]; rfl) hne

/-! ## `SEQ` and `TX` (R10, R12, R123) -/

/-- What an operation can do to `SEQ` and `TX`: nothing, or one valid frame that carries the old `SEQ`. -/
def SendsOneOrNone (s t : State) : Prop :=
  (t.seq = s.seq ∧ t.tx = s.tx) ∨
    (t.seq = s.seq + 1#8 ∧ ∃ f, validFrame f = true ∧ f[4]? = some s.seq ∧ t.tx = s.tx ++ f ∧ s.linkOpen = true)

theorem sendsOne_afterSend {s : State} (hp : (samplePlen s).toNat ≤ 253) (hl : s.linkOpen = true) :
    SendsOneOrNone s (afterSend s) := .inr ⟨rfl, sendFrame s, valid_sampled hp _ _, rfl, rfl, hl⟩

theorem sendsOneOrNone_sendOp (s : State) : SendsOneOrNone s (sendOp s) := by
  rcases Nat.lt_or_ge 253 (samplePlen s).toNat with hp | hp
  · rw [sendOp_tooLong hp]; exact .inl ⟨rfl, rfl⟩
  · rcases s.linkOpen.eq_false_or_eq_true with hl | hl
    · rw [sendOp_sent hp hl]; exact sendsOne_afterSend hp hl
    · rw [sendOp_closed hp hl]; exact .inl ⟨rfl, rfl⟩

theorem recvOp_seq_tx (s : State) : (recvOp s).seq = s.seq ∧ (recvOp s).tx = s.tx := by
  rw [recvOp_frame]; exact ⟨rfl, rfl⟩

theorem sendsOneOrNone_xferOp (s : State) : SendsOneOrNone s (xferOp s) := by
  by_cases hfail : 253 < (samplePlen s).toNat ∨ s.linkOpen = false
  · rw [xferOp_failed hfail]; exact sendsOneOrNone_sendOp s
  · simp only [not_or, Nat.not_lt, Bool.not_eq_false] at hfail
    obtain ⟨hseq, htx⟩ := recvOp_seq_tx (afterSend s)
    rw [xferOp_sent hfail.1 hfail.2]
    unfold SendsOneOrNone
    rw [hseq, htx]
    exact sendsOne_afterSend hfail.1 hfail.2

/-- Settles O33: by the body that runs. -/
theorem seqMovesOnlyWithASentFrame : Obligations.SeqMovesOnlyWithASentFrame := by
  unfold Obligations.SeqMovesOnlyWithASentFrame
  intro i s t h
  cases exec_cases h with
  | ignored | waits | reserved | disconnect => exact .inl ⟨rfl, rfl⟩
  | connect =>
    refine .inl ?_
    rcases s.linkOpen.eq_false_or_eq_true with hl | hl
    · rw [connectOp_open hl]; exact ⟨rfl, rfl⟩
    · rw [connectOp_closed hl]; simp
  | enc _ o => rw [encOp_frame]; exact .inl ⟨rfl, rfl⟩
  | send _ o => exact sendsOneOrNone_sendOp (setOpr o s)
  | xfer _ o => exact sendsOneOrNone_xferOp (setOpr o s)
  | recv _ o l => exact .inl (recvOp_seq_tx (setOpr o (deliver l s)))

/-- The frames of a list are valid and carry successive sequence numbers from `q` on, modulo 256. -/
def CarrySuccessive (q : Byte) (fs : List (List Byte)) : Prop :=
  ∀ k (h : k < fs.length), validFrame fs[k] = true ∧ (fs[k])[4]? = some (q + BitVec.ofNat 8 k)

theorem byte_add_one_add (q : Byte) (k : Nat) : q + 1#8 + BitVec.ofNat 8 k = q + BitVec.ofNat 8 (k + 1) := by
  apply BitVec.eq_of_toNat_eq
  simp only [BitVec.toNat_add, BitVec.toNat_ofNat]
  omega

theorem CarrySuccessive.cons {q : Byte} {f : List Byte} {fs : List (List Byte)} (hf : validFrame f = true)
    (hq : f[4]? = some q) (h : CarrySuccessive (q + 1#8) fs) : CarrySuccessive q (f :: fs) := by
  intro k hk
  cases k with
  | zero => exact ⟨hf, hq.trans (by simp)⟩
  | succ k =>
    obtain ⟨hv, hs⟩ := h k (by simpa using hk)
    exact ⟨hv, hs.trans (by rw [byte_add_one_add])⟩

/-- Settles O34: by induction on the list, each operation adding one frame or none. -/
theorem sentFramesCarrySuccessiveSequenceNumbers : Obligations.SentFramesCarrySuccessiveSequenceNumbers := by
  unfold Obligations.SentFramesCarrySuccessiveSequenceNumbers
  intro is
  induction is with
  | nil => rintro s t ⟨⟩; exact ⟨[], by simp, by simp, by simp, by simp⟩
  | cons i is ih =>
    intro s t h
    simp only [runOps] at h
    split at h
    · next s1 h1 =>
      obtain ⟨fs, hlen, htx, hseq, hfs⟩ := ih s1 t h
      rcases seqMovesOnlyWithASentFrame i s s1 h1 with ⟨hq, ht⟩ | ⟨hq, f, hv, hf, ht, -⟩
      · rw [hq] at hseq hfs
        exact ⟨fs, by rw [List.length_cons]; omega, by rw [htx, ht], hseq, hfs⟩
      · rw [hq] at hseq hfs
        refine ⟨f :: fs, by simpa using hlen, by rw [htx, ht]; simp, ?_, CarrySuccessive.cons hv hf hfs⟩
        rw [hseq, byte_add_one_add, List.length_cons]
    · cases h
    · cases h

/-! ## Operands never written (R212) -/

/-- What an ENC (`true`), or a SEND or XFER (`false`), reads and the host has not written. -/
theorem readsUnwritten_iff (needsSeqIn : Bool) (s : State) :
    readsUnwritten needsSeqIn s = true ↔
      s.opr.plenSet = false ∨
        (s.opr.plen.toNat ≤ 253 ∧
          (s.opr.cmdIdSet = false ∨ (needsSeqIn = true ∧ s.opr.seqInSet = false) ∨
            ∃ i, i < s.opr.plen.toNat ∧ Memory.read s.opr.txbuf i = none)) := by
  cases hset : s.opr.plenSet with
  | false => simp [readsUnwritten, hset]
  | true => simp [readsUnwritten, hset, plenTooLong, samplePlen, or_assoc]

theorem sendOp_hostFault (s : State) : (sendOp s).hostFault = (s.hostFault || readsUnwritten false s) := by
  rcases Nat.lt_or_ge 253 (samplePlen s).toNat with hp | hp
  · rw [sendOp_tooLong hp]; rfl
  · rcases s.linkOpen.eq_false_or_eq_true with hl | hl
    · rw [sendOp_sent hp hl]; rfl
    · rw [sendOp_closed hp hl]; rfl

theorem xferOp_hostFault (s : State) : (xferOp s).hostFault = (s.hostFault || readsUnwritten false s) := by
  by_cases hfail : 253 < (samplePlen s).toNat ∨ s.linkOpen = false
  · rw [xferOp_failed hfail, sendOp_hostFault]
  · simp only [not_or, Nat.not_lt, Bool.not_eq_false] at hfail
    rw [xferOp_sent hfail.1 hfail.2, recvOp_frame]; rfl

theorem encOp_hostFault (s : State) : (encOp s).hostFault = (s.hostFault || readsUnwritten true s) := by
  rcases Nat.lt_or_ge 253 (samplePlen s).toNat with hp | hp
  · rw [encOp_tooLong hp]; rfl
  · rw [encOp_built hp]; rfl

/-- Settles O37: each operation adds what it reads unwritten to the mark. -/
theorem unwrittenOperandMarksTheRun : Obligations.UnwrittenOperandMarksTheRun := by
  unfold Obligations.UnwrittenOperandMarksTheRun
  intro s hb missing
  refine ⟨encOp s, sendOp s, xferOp s, whenIdle_idle hb, whenIdle_idle hb, whenIdle_idle hb, ?_, ?_, ?_⟩
  · rw [encOp_hostFault, Bool.or_eq_true, readsUnwritten_iff]
  · rw [sendOp_hostFault, Bool.or_eq_true, readsUnwritten_iff]
  · rw [xferOp_hostFault, Bool.or_eq_true, readsUnwritten_iff]

/-! ## Completion (R157, R218) -/

/-- A read of items that are all fixed and none `Never` returns, and leaves such items. -/
theorem RxStream.read_returns (n : Nat) {r r' : RxStream} {bs : List Byte} {e : ReadEnd} (hlen : n ≤ r.ahead.length)
    (hnever : RxItem.never ∉ r.ahead) (h : RxStream.read n r = (bs, e, r')) :
    e ≠ .hangs ∧ r.ahead.length ≤ r'.ahead.length + n ∧ RxItem.never ∉ r'.ahead := by
  induction n generalizing r bs with
  | zero => cases h; exact ⟨by simp, Nat.le_refl _, hnever⟩
  | succ n ih =>
    obtain ⟨p, ahead, d⟩ := r
    cases ahead with
    | nil => simp at hlen
    | cons it rest =>
      have hrest : RxItem.never ∉ rest := fun hm => hnever (List.mem_cons_of_mem _ hm)
      simp only [List.length_cons] at hlen ⊢
      cases it with
      | byte b =>
        rcases hr : RxStream.read n ⟨p + 1, rest, d⟩ with ⟨bs1, e1, r2⟩
        simp only [RxStream.read, RxStream.item_byte, hr] at h
        cases h
        obtain ⟨he, hl, hn⟩ := ih (r := ⟨p + 1, rest, d⟩) (by simpa using hlen) hrest hr
        dsimp only at hl
        exact ⟨he, by omega, hn⟩
      | streamEnd => cases h; exact ⟨by simp, by dsimp only; omega, hrest⟩
      | never => exact absurd List.mem_cons_self hnever

/-- With 261 items fixed and none `Never`, `decode` returns: it reads `2 + 1 + (L + 3)` items at most. -/
theorem RxStream.decode_returns {r : RxStream} (hlen : 261 ≤ r.ahead.length) (hnever : RxItem.never ∉ r.ahead)
    (d : DState) : r.decode.1 ≠ .hangs d := by
  unfold RxStream.decode
  rcases h2 : RxStream.read 2 r with ⟨hd, e, r1⟩
  obtain ⟨he, hl1, hn1⟩ := RxStream.read_returns 2 (by omega) hnever h2
  cases e with
  | ended => simp
  | hangs => exact absurd rfl he
  | full =>
    dsimp only
    split
    · simp
    · rcases h1 : RxStream.read 1 r1 with ⟨l, e, r2⟩
      obtain ⟨he, hl2, hn2⟩ := RxStream.read_returns 1 (by omega) hn1 h1
      cases e with
      | ended => simp
      | hangs => exact absurd rfl he
      | full =>
        dsimp only
        have := (l.headD 0#8).isLt
        rcases h3 : RxStream.read ((l.headD 0#8).toNat + Config.trailerAfterLen) r2 with ⟨t, e, r3⟩
        obtain ⟨he, -, -⟩ := RxStream.read_returns _ (by simp only [Config.trailerAfterLen]; omega) hn2 h3
        cases e with
        | ended => simp
        | hangs => exact absurd rfl he
        | full => simp

theorem recvOp_completes {s : State} (hb : s.busy = false) (hlen : 261 ≤ s.rx.ahead.length)
    (hnever : RxItem.never ∉ s.rx.ahead) : (recvOp s).busy = false := by
  rcases s.linkOpen.eq_false_or_eq_true with hl | hl
  · rcases hd : s.rx.decode with ⟨f | k | d, r⟩
    · rw [recvOp_received hl hd]; exact hb
    · rw [recvOp_error hl hd]; exact hb
    · exact absurd (congrArg Prod.fst hd) (RxStream.decode_returns hlen hnever d)
  · rw [recvOp_closed hl]; exact hb

/-- Settles O57: only a `decode` can leave an operation unfinished, and it returns. -/
theorem operationsCompleteWhenReadsReturn : Obligations.OperationsCompleteWhenReadsReturn := by
  unfold Obligations.OperationsCompleteWhenReadsReturn
  intro s hb hlen hnever i hi
  rcases exec_hostOp hi s with ⟨-, h⟩ | ⟨-, h⟩ | ⟨-, h⟩ | ⟨-, h⟩ | ⟨-, h⟩ | ⟨-, h⟩ | ⟨-, h⟩ <;>
    refine ⟨_, h.trans (whenIdle_idle hb), ?_⟩
  · exact hb
  · exact (Between.refl.connectOp (s := s)).machines.1.trans hb
  · exact hb
  · rw [encOp_frame]; exact hb
  · rw [sendOp_frame]; exact hb
  · exact recvOp_completes hb hlen hnever
  · by_cases hfail : 253 < (samplePlen s).toNat ∨ s.linkOpen = false
    · rw [xferOp_failed hfail, sendOp_frame]; exact hb
    · simp only [not_or, Nat.not_lt, Bool.not_eq_false] at hfail
      rw [xferOp_sent hfail.1 hfail.2]
      exact recvOp_completes (s := afterSend s) hb hlen hnever

end Sys2Proof.Machine

/-! # The rows about the wire (30_encoding.md, 44_wire_commands.md) -/

namespace Sys2Proof.Machine

/-! ## A frame that the block builds (R60, R72) -/

/-- The state in which the line `ENC c, q, p` runs (R72). -/
def encLineState (c q : Byte) (p : List Byte) (s : State) : State := setOp 3#3 (loadCommand c p (loadSeqIn q s))

theorem exec_built {c q : Byte} {p : List Byte} {s : State} (hb : s.busy = false) (hp : p.length ≤ 511) :
    exec (.frame .built c q p) s = .next (encOp (encLineState c q p s)) := by
  simp only [exec, execFrame, encLine]
  rw [if_neg (by simp [hb]), if_neg (Nat.not_lt.mpr hp)]
  rfl

/-- The line leaves no operand of its ENC unwritten. -/
theorem chargeHost_encLine {c q : Byte} {p : List Byte} {s : State} (hp : p.length ≤ 511) :
    chargeHost true (encLineState c q p s) = encLineState c q p s := by
  have hreads : readsUnwritten true (encLineState c q p s) = false :=
    (sample_loadSeqIn 3#3 q (loadCommand c p s)).2.2.2.2.trans (readsUnwritten_load 3#3 c s hp)
  unfold chargeHost
  rw [hreads, Bool.or_false]

theorem encOp_encLine {c q : Byte} {p : List Byte} {s : State} (hp : p.length ≤ 253) :
    encOp (encLineState c q p s) = setStatus 0#3 (storeFrame (.ok (frameBytes c q p)) (encLineState c q p s)) := by
  have hplen : (samplePlen (encLineState c q p s)).toNat = p.length := toNat_samplePlen_load 3#3 c _ (by omega)
  have hcmd : sampleCmdId (encLineState c q p s) = c := sampleCmdId_load 3#3 c p _
  have hseq : sampleSeqIn (encLineState c q p s) = q := rfl
  have hpay : samplePayload (encLineState c q p s) = p := samplePayload_load 3#3 c _ hp
  rw [encOp_built (by omega), hcmd, hseq, hpay, chargeHost_encLine (by omega)]

theorem encOp_encLine_tooLong {c q : Byte} {p : List Byte} {s : State} (hp : 253 < p.length) (hp' : p.length ≤ 511) :
    encOp (encLineState c q p s) =
      setStatus 4#3 (storeFrame (.error .invalidArgument) (encLineState c q p s)) := by
  have hplen : (samplePlen (encLineState c q p s)).toNat = p.length := toNat_samplePlen_load 3#3 c _ hp'
  rw [encOp_tooLong (by omega), chargeHost_encLine hp']

theorem holdsFrame_frameBytes (c q : Byte) {p : List Byte} (hp : p.length ≤ 253) :
    holdsFrame (frameBytes c q p)
      { fbuf := Memory.ofBytes 0 (frameBytes c q p), flen := BitVec.ofNat 9 (frameBytes c q p).length } :=
  holdsFrame_ofBytes (by rw [frameBytes_length]; omega)

/-- Settles O13: the line loads its operands, and its ENC builds the frame. -/
theorem frameBuiltStandsInFbuf : Obligations.FrameBuiltStandsInFbuf := by
  unfold Obligations.FrameBuiltStandsInFbuf
  intro s cmd seq payload hb hp
  have hread := read_loadCommand (c := cmd) (loadSeqIn seq s) hp
  have hplen : (BitVec.ofNat 9 payload.length).toNat = payload.length := by rw [BitVec.toNat_ofNat]; omega
  refine ⟨_, (exec_built hb (by omega)).trans (congrArg _ (encOp_encLine hp)), holdsFrame_frameBytes cmd seq hp, rfl,
    rfl, rfl, hplen, fun a ha => (hread a).trans (if_pos ha),
    fun a ha => (hread a).trans (if_neg (Nat.not_lt.mpr ha)), rfl⟩

/-- Settles O15: by `BUSY`, then by the payload's length. -/
theorem frameBuildingLinesWithoutFrame : Obligations.FrameBuildingLinesWithoutFrame := by
  unfold Obligations.FrameBuildingLinesWithoutFrame
  intro s cmd seq payload
  refine ⟨fun hb => if_pos hb, fun hb hp => ?_, fun hb hp hp' => ?_⟩
  · simp only [exec, execFrame, encLine]
    rw [if_neg (by simp [hb]), if_pos hp]
  · exact ⟨_, (exec_built hb hp').trans (congrArg _ (encOp_encLine_tooLong hp hp')), holdsNothing_empty,
      holdsLine_load 3#3 cmd payload (loadSeqIn seq s), rfl⟩

/-! ## A frame that the transport delivers (R107, R120) -/

theorem exec_received {c q : Byte} {p : List Byte} (hp : p.length ≤ 253) (s : State) :
    exec (.frame .received c q p) s = receiveItems ((frameBytes c q p).map RxItem.byte) s := by
  simp only [exec, execFrame, receiveFrame]
  rw [encodeFrame_bytes, if_pos hp]

theorem receiveItems_busy {items : List RxItem} {s : State} (hb : s.busy = true) :
    receiveItems items s = .next (deliver items s) := by
  rw [receiveItems_eq, if_pos hb]

theorem receiveItems_idle {items : List RxItem} {s : State} (hb : s.busy = false) :
    receiveItems items s = .next (recvOp (setOp 5#3 (deliver items s))) := by
  rw [receiveItems_eq, if_neg (by simp [hb])]

/-- The stream after a delivery with nothing waiting before it. -/
theorem deliver_rx_of_nothing_ahead {items : List RxItem} {s : State} (h : s.rx.ahead = []) :
    (setOp 5#3 (deliver items s)).rx = ⟨s.rx.pos, items, s.rx.draws⟩ := by
  simp [h]

/-- Settles O14: `decode` on the bytes of a frame reads that frame, whose views are lemmas of their own. -/
theorem frameReceivedIsReadBack : Obligations.FrameReceivedIsReadBack := by
  unfold Obligations.FrameReceivedIsReadBack
  intro s cmd seq payload hb hl hahead hp
  let u := setOp 5#3 (deliver ((frameBytes cmd seq payload).map RxItem.byte) s)
  have hdecode : u.rx.decode =
      (.frame (sentFrame cmd seq payload), ⟨s.rx.pos + payload.length + 8, [], s.rx.draws⟩) := by
    rw [deliver_rx_of_nothing_ahead hahead, ← RxStream.decode_frameBytes cmd seq hp, List.append_nil]
  refine ⟨recvOp u, sentFrame cmd seq payload, (exec_received hp s).trans (receiveItems_idle hb), ?_⟩
  rw [recvOp_received (s := u) hl hdecode, ← hahead]
  exact ⟨holdsReceived_ofBytes (sentFrame_trail_length cmd seq hp), sentFrame_commandId cmd seq hp,
    sentFrame_sequence cmd seq hp, sentFrame_payload cmd seq hp, sentFrame_valid cmd seq hp, rfl, rfl⟩

/-- Settles O16: by the payload's length, `BUSY` and the link. -/
theorem receivedFrameWaitsBehindOlderItems : Obligations.ReceivedFrameWaitsBehindOlderItems := by
  unfold Obligations.ReceivedFrameWaitsBehindOlderItems
  intro s cmd seq payload s'
  refine ⟨fun hp => ?_, fun hp hb => (exec_received hp s).trans (receiveItems_busy hb), fun hp hb =>
    ⟨_, (exec_received hp s).trans (receiveItems_idle hb), fun hl => ?_, fun hl => ?_⟩⟩
  · simp only [exec, execFrame, receiveFrame]
    rw [encodeFrame_bytes, if_neg (Nat.not_le.mpr hp)]
  · rw [recvOp_closed (s := setOp 5#3 (deliver _ s)) hl]
    exact ⟨holdsNoFrame_empty, rfl⟩
  · exact recvOp_receives (s := setOp 5#3 (deliver _ s)) hl

/-! ## The command rows (R170 to R174) -/

/-- The state in which a command line's operation runs (R72). -/
abbrev lineState (op : BitVec 3) (c : Byte) (p : List Byte) (s : State) : State := setOp op (loadCommand c p s)

/-- Settles O17: the line loads its operands, and its SEND sends the frame. -/
theorem commandsSendTheirFrame : Obligations.CommandsSendTheirFrame := by
  unfold Obligations.CommandsSendTheirFrame
  intro s c payload i hi hb hl hp
  have hplen : (samplePlen (lineState 4#3 c payload s)).toNat = payload.length :=
    toNat_samplePlen_load 4#3 c s (by omega)
  have hexec : exec i s = .next (sendOp (lineState 4#3 c payload s)) :=
    (exec_isCommand hi s).trans (commandLine_idle hb (by omega))
  refine ⟨_, hexec, ?_⟩
  rw [sendOp_sent (s := lineState 4#3 c payload s) (by omega) hl, afterSend_load 4#3 c s hp]
  exact ⟨holdsFrame_frameBytes c s.seq hp, holdsLine_load 4#3 c payload s, rfl⟩

/-- Settles O18: the line loads its operands, and its XFER is the RECV of the sent state. -/
theorem commandsTransferTheirFrame : Obligations.CommandsTransferTheirFrame := by
  unfold Obligations.CommandsTransferTheirFrame
  intro s c payload i hi hb hl hp
  have hplen : (samplePlen (lineState 6#3 c payload s)).toNat = payload.length :=
    toNat_samplePlen_load 6#3 c s (by omega)
  have hexec : exec i s = .next (xferOp (lineState 6#3 c payload s)) :=
    (exec_isCommand hi s).trans (commandLine_idle hb (by omega))
  have hop : xferOp (lineState 6#3 c payload s) =
      recvOp { sentState (frameBytes c s.seq payload) s with opr := (lineState 6#3 c payload s).opr } := by
    rw [xferOp_sent (s := lineState 6#3 c payload s) (by omega) hl, afterSend_load 6#3 c s hp]
  have hreceives := recvOp_receives
    (s := { sentState (frameBytes c s.seq payload) s with opr := (lineState 6#3 c payload s).opr }) hl
  have hopr : (recvOp { sentState (frameBytes c s.seq payload) s with opr := (lineState 6#3 c payload s).opr }).opr =
      (lineState 6#3 c payload s).opr := by rw [recvOp_frame]
  refine ⟨_, hexec.trans (congrArg _ hop), ?_, ?_⟩
  · rw [hopr]; exact holdsLine_load 6#3 c payload s
  · rw [hopr]; exact hreceives

/-- A SEND of a line that fails: by the payload's length, with nothing changed but the encoder result registers and
`STATUS`. -/
theorem sendOp_line_failed {op : BitVec 3} {c : Byte} {p : List Byte} {s : State} (hp : p.length ≤ 511)
    (hfail : 253 < p.length ∨ s.linkOpen = false) :
    ∃ e v, sendOp (lineState op c p s) = { lineState op c p s with enc := e, status := v } ∧
      (253 < p.length → holdsNothing e ∧ v = 4#3) ∧
      (p.length ≤ 253 → holdsFrame (frameBytes c s.seq p) e ∧ v = 1#3) := by
  have hplen : (samplePlen (lineState op c p s)).toNat = p.length := toNat_samplePlen_load op c s hp
  rcases Nat.lt_or_ge 253 p.length with hlong | hshort
  · rw [sendOp_tooLong (by omega), chargeHost_load op c s hp]
    exact ⟨_, _, rfl, fun _ => ⟨holdsNothing_empty, rfl⟩, fun h => absurd h (Nat.not_le.mpr hlong)⟩
  · have hl : s.linkOpen = false := hfail.resolve_left (Nat.not_lt.mpr hshort)
    rw [sendOp_closed (s := lineState op c p s) (by omega) hl, chargeHost_load op c s hp, sendFrame_load op c s hshort]
    exact ⟨_, _, rfl, fun h => absurd h (Nat.not_lt.mpr hshort), fun _ => ⟨holdsFrame_frameBytes c s.seq hshort, rfl⟩⟩

/-- Settles O19: by `BUSY`, then by the payload's length and the link, an XFER failing as a SEND does. -/
theorem commandLinesThatDoNotSend : Obligations.CommandLinesThatDoNotSend := by
  unfold Obligations.CommandLinesThatDoNotSend
  intro s c via payload i hi
  rw [exec_isCommand hi s]
  refine ⟨fun hb => if_pos hb, fun hb hp => ?_, fun hb hp hfail => ?_⟩
  · unfold commandLine
    rw [if_neg (by simp [hb]), if_pos hp]
  · have hline : commandLine c via payload s =
        .next (sendOp (lineState (if via = .send then 4#3 else 6#3) c payload s)) := by
      rw [commandLine_idle hb hp]
      cases via with
      | send => rfl
      | xfer =>
        have hplen : (samplePlen (lineState 6#3 c payload s)).toNat = payload.length :=
          toNat_samplePlen_load 6#3 c s hp
        exact congrArg _ (xferOp_failed (s := lineState 6#3 c payload s) (by rw [hplen]; exact hfail))
    obtain ⟨e, v, hop, hlong, hshort⟩ :=
      sendOp_line_failed (op := if via = .send then 4#3 else 6#3) (c := c) hp hfail
    refine ⟨_, hline.trans (congrArg _ hop), holdsLine_load _ c payload s, hlong, hshort, rfl⟩

/-! ## The `CMD` byte makes no difference (R170) -/

/-- `t` and `u` differ in the `CMD` byte and the bytes sent only: `t`'s is `c`. -/
structure SameButCmd (c : Byte) (t u : State) : Prop where
  status : t.status = u.status
  seq : t.seq = u.seq
  linkOpen : t.linkOpen = u.linkOpen
  rx : t.rx = u.rx
  dec : t.dec = u.dec
  busy : t.busy = u.busy
  em : t.em = u.em
  dm : t.dm = u.dm
  opr : t.opr = { u.opr with cmdId := c }
  hostFault : t.hostFault = u.hostFault
  tx : t.tx.length = u.tx.length
  flen : t.enc.flen = u.enc.flen

theorem SameButCmd.setStatus {c : Byte} {t u : State} (h : SameButCmd c t u) (v : BitVec 3) :
    SameButCmd c (setStatus v t) (setStatus v u) :=
  ⟨rfl, h.seq, h.linkOpen, h.rx, h.dec, h.busy, h.em, h.dm, h.opr, h.hostFault, h.tx, h.flen⟩

theorem SameButCmd.setDec {c : Byte} {t u : State} (h : SameButCmd c t u) (d : DecoderRegs) :
    SameButCmd c (setDec d t) (setDec d u) :=
  ⟨h.status, h.seq, h.linkOpen, h.rx, rfl, h.busy, h.em, h.dm, h.opr, h.hostFault, h.tx, h.flen⟩

theorem SameButCmd.setRx {c : Byte} {t u : State} (h : SameButCmd c t u) (r : RxStream) :
    SameButCmd c (setRx r t) (setRx r u) :=
  ⟨h.status, h.seq, h.linkOpen, rfl, h.dec, h.busy, h.em, h.dm, h.opr, h.hostFault, h.tx, h.flen⟩

theorem SameButCmd.hangAt {c : Byte} {t u : State} (h : SameButCmd c t u) (d : DState) :
    SameButCmd c (hangAt d t) (hangAt d u) :=
  ⟨h.status, h.seq, h.linkOpen, h.rx, h.dec, rfl, h.em, by rw [hangAt_dm, hangAt_dm, h.dm], h.opr, h.hostFault, h.tx,
    h.flen⟩

theorem SameButCmd.recvOp {c : Byte} {t u : State} (h : SameButCmd c t u) : SameButCmd c (recvOp t) (recvOp u) := by
  rcases u.linkOpen.eq_false_or_eq_true with hl | hl
  · have hl' : t.linkOpen = true := h.linkOpen.trans hl
    rcases hd : u.rx.decode with ⟨f | k | d, r⟩
    · rw [recvOp_received hl' (h.rx ▸ hd), recvOp_received hl hd]
      exact ((h.setRx r).setDec _).setStatus _
    · rw [recvOp_error hl' (h.rx ▸ hd), recvOp_error hl hd]
      exact ((h.setRx r).setDec _).setStatus _
    · rw [recvOp_hangs hl' (h.rx ▸ hd), recvOp_hangs hl hd]
      exact (h.setRx r).hangAt d
  · rw [recvOp_closed (h.linkOpen.trans hl), recvOp_closed hl]
    exact (h.setDec _).setStatus _

section Lines

variable (op : BitVec 3) (c c' : Byte) {p : List Byte} {s : State}

theorem sendFrame_length (s : State) : (sendFrame s).length = (samplePlen s).toNat + 8 := by
  rw [frameBytes_length, samplePayload_length]

theorem sameButCmd_afterSend (p : List Byte) (s : State) :
    SameButCmd c (afterSend (lineState op c p s)) (afterSend (lineState op c' p s)) := by
  have hlen : (sendFrame (lineState op c p s)).length = (sendFrame (lineState op c' p s)).length := by
    rw [sendFrame_length, sendFrame_length]; rfl
  refine ⟨rfl, rfl, rfl, rfl, rfl, rfl, rfl, rfl, rfl, rfl, ?_, congrArg (BitVec.ofNat 9) hlen⟩
  simp only [afterSend, bumpSeq_tx, txWrite_tx, List.length_append, hlen]
  rfl

theorem sameButCmd_sendOp (p : List Byte) (s : State) :
    SameButCmd c (sendOp (lineState op c p s)) (sendOp (lineState op c' p s)) := by
  rcases Nat.lt_or_ge 253 (samplePlen (lineState op c p s)).toNat with hp | hp
  · rw [sendOp_tooLong hp, sendOp_tooLong (s := lineState op c' p s) hp]
    exact ⟨rfl, rfl, rfl, rfl, rfl, rfl, rfl, rfl, rfl, rfl, rfl, rfl⟩
  · rcases s.linkOpen.eq_false_or_eq_true with hl | hl
    · rw [sendOp_sent hp hl, sendOp_sent (s := lineState op c' p s) hp hl]
      exact (sameButCmd_afterSend op c c' p s).setStatus _
    · rw [sendOp_closed hp hl, sendOp_closed (s := lineState op c' p s) hp hl]
      refine ⟨rfl, rfl, rfl, rfl, rfl, rfl, rfl, rfl, rfl, rfl, rfl, congrArg (BitVec.ofNat 9) ?_⟩
      rw [sendFrame_length, sendFrame_length]; rfl

theorem sameButCmd_xferOp (p : List Byte) (s : State) :
    SameButCmd c (xferOp (lineState op c p s)) (xferOp (lineState op c' p s)) := by
  by_cases hfail : 253 < (samplePlen (lineState op c p s)).toNat ∨ s.linkOpen = false
  · rw [xferOp_failed hfail, xferOp_failed (s := lineState op c' p s) hfail]
    exact sameButCmd_sendOp op c c' p s
  · simp only [not_or, Nat.not_lt, Bool.not_eq_false] at hfail
    rw [xferOp_sent hfail.1 hfail.2, xferOp_sent (s := lineState op c' p s) hfail.1 hfail.2]
    exact (sameButCmd_afterSend op c c' p s).recvOp

end Lines

/-- Settles O20: both commands are lines, which differ in the `CMD` byte. -/
theorem behaviourIsIndependentOfCmd : Obligations.BehaviourIsIndependentOfCmd := by
  unfold Obligations.BehaviourIsIndependentOfCmd
  intro s t c c' via payload i j hi hj h
  rw [exec_isCommand hi s] at h
  obtain ⟨hb, hp, hcase⟩ := commandLine_next h
  suffices hsame : ∃ u, exec j s = .next u ∧ SameButCmd c t u by
    obtain ⟨u, hu, h⟩ := hsame
    exact ⟨u, hu, h.status, h.seq, h.linkOpen, h.rx, h.dec, h.busy, h.em, h.dm, h.opr, h.hostFault, h.tx, h.flen⟩
  rw [exec_isCommand hj s, commandLine_idle hb hp]
  rcases hcase with ⟨rfl, rfl⟩ | ⟨rfl, rfl⟩
  · exact ⟨_, rfl, sameButCmd_sendOp 4#3 c c' payload s⟩
  · exact ⟨_, rfl, sameButCmd_xferOp 6#3 c c' payload s⟩

/-! ## Bytes that the transport delivers, whatever they are (R71, R101 to R105, R110) -/

/-- Items that `decode` comes to another end on than `Truncated` are delivered with no `End` behind them. -/
theorem wireItems_of_whole {bs : List Byte} (h : decodeBytes bs ≠ .error .truncated) :
    wireItems bs = bs.map RxItem.byte := by
  unfold wireItems
  split
  · next ht => exact absurd ht h
  · rfl

theorem wireItems_of_short {bs : List Byte} (h : decodeBytes bs = .error .truncated) :
    wireItems bs = bs.map RxItem.byte ++ [.streamEnd] := by
  unfold wireItems
  rw [h]

/-- Too few bytes for one `decode`. -/
def TooFew (bs : List Byte) : Prop :=
  bs.length < 2 ∨ bs = [0xAA#8, 0xAA#8] ∨ ∃ l tr, bs = 0xAA#8 :: 0xAA#8 :: l :: tr ∧ tr.length < l.toNat + 3

/-- The shapes of delivered bytes: a wrong start, a whole frame with bytes behind it, or too few. -/
theorem deliveredShapes (bs : List Byte) :
    (∃ a b tl, bs = a :: b :: tl ∧ ¬(a = 0xAA#8 ∧ b = 0xAA#8)) ∨
      (∃ l tr tl, bs = 0xAA#8 :: 0xAA#8 :: l :: (tr ++ tl) ∧ tr.length = l.toNat + 3) ∨ TooFew bs := by
  match bs with
  | [] => exact .inr (.inr (.inl (by simp)))
  | [_] => exact .inr (.inr (.inl (by simp)))
  | a :: b :: tl =>
    by_cases hab : a = 0xAA#8 ∧ b = 0xAA#8
    · obtain ⟨rfl, rfl⟩ := hab
      cases tl with
      | nil => exact .inr (.inr (.inr (.inl rfl)))
      | cons l tr =>
        rcases Nat.lt_or_ge tr.length (l.toNat + 3) with hlt | hge
        · exact .inr (.inr (.inr (.inr ⟨l, tr, rfl, hlt⟩)))
        · refine .inr (.inl ⟨l, tr.take (l.toNat + 3), tr.drop (l.toNat + 3), ?_, List.length_take_of_le hge⟩)
          rw [List.take_append_drop]
    · exact .inl ⟨a, b, tl, rfl, hab⟩

section DecodeWire

variable (p d : Nat)

/-- A wrong start, with anything behind it. -/
theorem decode_wireItems_badStart {a b : Byte} {tl : List Byte} (h : ¬(a = 0xAA#8 ∧ b = 0xAA#8)) :
    RxStream.decode ⟨p, wireItems (a :: b :: tl), d⟩ = (.error .badHeader, ⟨p + 2, tl.map RxItem.byte, d⟩) := by
  have hbytes : decodeBytes (a :: b :: tl) = .error .badHeader :=
    congrArg Prod.fst (RxStream.decode_badHeader 0 0 (tl.map RxItem.byte ++ [RxItem.streamEnd]) h)
  rw [wireItems_of_whole (by simp [hbytes])]
  exact RxStream.decode_badHeader p d _ h

/-- The marker, a length byte and all its trailing bytes, with anything behind them. -/
theorem decode_wireItems_frame {l : Byte} {tr tl : List Byte} (h : tr.length = l.toNat + 3) :
    RxStream.decode ⟨p, wireItems (0xAA#8 :: 0xAA#8 :: l :: (tr ++ tl)), d⟩ =
      (.frame ⟨l, tr⟩, ⟨p + l.toNat + 6, tl.map RxItem.byte, d⟩) := by
  have hsplit (rest : List RxItem) : (0xAA#8 :: 0xAA#8 :: l :: (tr ++ tl)).map RxItem.byte ++ rest =
      (0xAA#8 :: 0xAA#8 :: l :: tr).map RxItem.byte ++ (tl.map RxItem.byte ++ rest) := by simp
  have hbytes : decodeBytes (0xAA#8 :: 0xAA#8 :: l :: (tr ++ tl)) = .frame ⟨l, tr⟩ := by
    unfold decodeBytes
    rw [hsplit, RxStream.decode_frame 0 0 _ h]
  rw [wireItems_of_whole (by simp [hbytes]), ← List.append_nil (List.map _ (_ :: _ :: _ :: (tr ++ tl))), hsplit,
    List.append_nil, RxStream.decode_frame p d _ h]

/-- Too few bytes, with `End` behind them. -/
theorem decode_short {bs : List Byte} (h : TooFew bs) :
    RxStream.decode ⟨p, bs.map RxItem.byte ++ [.streamEnd], d⟩ =
      (.error .truncated, ⟨p + bs.length + 1, [], d⟩) := by
  rcases h with hlen | rfl | ⟨l, tr, rfl, hlen⟩
  · exact RxStream.decode_headerTruncated p d [] hlen
  · exact RxStream.decode_lengthTruncated p d []
  · rw [RxStream.decode_bodyTruncated p d [] hlen]
    simp only [List.length_cons, Prod.mk.injEq, true_and, RxStream.mk.injEq, and_true]
    omega

theorem decode_wireItems_short {bs : List Byte} (h : TooFew bs) :
    RxStream.decode ⟨p, wireItems bs, d⟩ = (.error .truncated, ⟨p + bs.length + 1, [], d⟩) := by
  have hbytes : decodeBytes bs = .error .truncated := congrArg Prod.fst (decode_short 0 0 h)
  rw [wireItems_of_short hbytes, decode_short p d h]

end DecodeWire

/-- The items of a frame's bytes are those bytes. -/
theorem wireItems_frameBytes (c q : Byte) {p : List Byte} (hp : p.length ≤ 253) :
    wireItems (frameBytes c q p) = (frameBytes c q p).map RxItem.byte := by
  have hbytes : decodeBytes (frameBytes c q p) = .frame (sentFrame c q p) :=
    congrArg Prod.fst (RxStream.decode_frameBytes c q hp 0 0 [.streamEnd])
  exact wireItems_of_whole (by simp [hbytes])

/-- Whether they are a valid frame or not, delivered bytes are received as their items. -/
theorem presentStep_frameIn (bs : List Byte) (s : State) :
    presentStep ⟨.frameIn, bs⟩ s = receiveItems (wireItems bs) s := by
  unfold presentStep
  split
  · rfl
  · next i hw =>
    have hdecode : decodeFrameWord .received bs = .ok (i, []) := by
      unfold decodeWord at hw
      split at hw
      · cases hw
      · next hok => cases hw; exact hok
      · cases hw
    obtain ⟨c, q, p, hp, rfl, rfl⟩ := decodeFrameWord_eq_ok hdecode
    rw [List.append_nil, wireItems_frameBytes c q hp]
    exact exec_received hp s

theorem step_of_present {s : State} {w : HostWord} {rest : List Input} (h : s.inputs = .present w :: rest) :
    step s = presentStep w (dropInput rest s) := by
  unfold step
  rw [h]

/-- Settles O42: by `BUSY` and the link, then by the shape of the bytes. -/
theorem deliveredBytesAreReceivedWhateverTheyAre : Obligations.DeliveredBytesAreReceivedWhateverTheyAre := by
  unfold Obligations.DeliveredBytesAreReceivedWhateverTheyAre
  intro s bs rest hin
  rw [step_of_present hin, presentStep_frameIn]
  let u := setOp 5#3 (deliver (wireItems bs) (dropInput rest s))
  refine ⟨fun hb => ⟨wireItems bs, wireItems_cases bs, receiveItems_busy hb⟩,
    fun hb hl => ⟨recvOp u, receiveItems_idle hb, ?_⟩, fun hb hl hahead => ⟨recvOp u, receiveItems_idle hb, ?_⟩⟩
  · rw [recvOp_closed (s := u) hl]
    exact ⟨rfl, rfl, holdsNoFrame_empty, rfl⟩
  have hrx : u.rx = ⟨s.rx.pos, wireItems bs, s.rx.draws⟩ := deliver_rx_of_nothing_ahead (s := dropInput rest s) hahead
  have hbad {a b : Byte} {tl : List Byte} (hbs : bs = a :: b :: tl) (hab : ¬(a = 0xAA#8 ∧ b = 0xAA#8)) :
      recvOp u = setStatus 2#3 (setDec (noFrame []) (setRx ⟨s.rx.pos + 2, tl.map RxItem.byte, s.rx.draws⟩ u)) :=
    recvOp_error (k := .badHeader) (s := u) hl (by rw [hrx, hbs]; exact decode_wireItems_badStart _ _ hab)
  have hwhole {l : Byte} {tr tl : List Byte} (hbs : bs = 0xAA#8 :: 0xAA#8 :: l :: (tr ++ tl))
      (hlen : tr.length = l.toNat + 3) :
      recvOp u = setStatus 0#3 (setDec (receivedRegs ⟨l, tr⟩)
        (setRx ⟨s.rx.pos + l.toNat + 6, tl.map RxItem.byte, s.rx.draws⟩ u)) :=
    recvOp_received (s := u) hl (by rw [hrx, hbs]; exact decode_wireItems_frame _ _ hlen)
  have hshort (h : TooFew bs) :
      recvOp u = setStatus 3#3 (setDec (noFrame []) (setRx ⟨s.rx.pos + bs.length + 1, [], s.rx.draws⟩ u)) :=
    recvOp_error (k := .truncated) (s := u) hl (by rw [hrx]; exact decode_wireItems_short _ _ h)
  refine ⟨fun a b tl hbs hab => ?_, fun l tr tl hbs hlen => ?_, fun h => ?_, ?_⟩
  · rw [hbad hbs hab]
    exact ⟨rfl, holdsNoFrame_empty, rfl⟩
  · rw [hwhole hbs hlen]
    exact ⟨rfl, holdsReceived_ofBytes (f := ⟨l, tr⟩) hlen, rfl⟩
  · rw [hshort h, ← hahead]
    exact ⟨rfl, holdsNoFrame_empty, rfl⟩
  · rcases deliveredShapes bs with ⟨a, b, tl, hbs, hab⟩ | ⟨l, tr, tl, hbs, hlen⟩ | h
    · rw [hbad hbs hab]; rfl
    · rw [hwhole hbs hlen]; rfl
    · rw [hshort h]; rfl

end Sys2Proof.Machine

/-! # The decoder function and the validator (41_decode.md): what `decode` depends on, and the flags -/

namespace Sys2Proof.Machine

/-! ## `decode` depends only on the items it consumes (R103) -/

/-- A read that returns and takes no free item has taken `taken` from the head of the stream, and does the same on every
stream that begins so. -/
def ReadsJust (n : Nat) (taken : List RxItem) (bs : List Byte) (e : ReadEnd) : Prop :=
  ∀ (p d : Nat) (rest : List RxItem),
    RxStream.read n ⟨p, taken ++ rest, d⟩ = (bs, e, ⟨p + taken.length, rest, d⟩)

/-- A read counts the free items it takes; where it takes none, it reads just what it takes. -/
theorem RxStream.read_local (n : Nat) {r r' : RxStream} {bs : List Byte} {e : ReadEnd}
    (h : RxStream.read n r = (bs, e, r')) (he : e ≠ .hangs) :
    r.draws ≤ r'.draws ∧ (r'.draws = r.draws → ∃ taken, r.ahead = taken ++ r'.ahead ∧ ReadsJust n taken bs e) := by
  induction n generalizing r bs with
  | zero => cases h; exact ⟨Nat.le_refl _, fun _ => ⟨[], rfl, fun _ _ _ => rfl⟩⟩
  | succ n ih =>
    obtain ⟨p, ahead, d⟩ := r
    cases ahead with
    | nil =>
      have hdraws : d < r'.draws := by
        simp only [RxStream.read, RxStream.item, RxStream.peek] at h
        cases hit : Config.rxItem d with
        | byte b =>
          simp only [hit] at h
          rcases hr : RxStream.read n ⟨p + 1, [], d + 1⟩ with ⟨bs1, e1, r2⟩
          rw [hr] at h
          cases h
          exact (ih hr).1
        | streamEnd => simp only [hit] at h; cases h; exact Nat.lt_succ_self d
        | never => simp only [hit] at h; cases h; exact absurd rfl he
      exact ⟨Nat.le_of_lt hdraws, fun heq => absurd heq (Nat.ne_of_gt hdraws)⟩
    | cons it rest =>
      cases it with
      | byte b =>
        rcases hr : RxStream.read n ⟨p + 1, rest, d⟩ with ⟨bs1, e1, r2⟩
        simp only [RxStream.read, RxStream.item_byte, hr] at h
        cases h
        obtain ⟨hle, hjust⟩ := ih hr
        refine ⟨hle, fun heq => ?_⟩
        obtain ⟨taken, hahead, htaken⟩ := hjust heq
        refine ⟨.byte b :: taken, by rw [List.cons_append, ← hahead], fun p d rest => ?_⟩
        simp only [List.cons_append, RxStream.read, RxStream.item_byte, htaken (p + 1) d rest, List.length_cons,
          Nat.add_assoc, Nat.add_comm 1]
      | streamEnd => cases h; exact ⟨Nat.le_refl _, fun _ => ⟨[.streamEnd], rfl, fun _ _ _ => rfl⟩⟩
      | never => cases h; exact absurd rfl he

/-- A `decode` that comes to `o` after the items `taken`, whatever stands behind them. -/
def DecodesJust (taken : List RxItem) (o : DecodeResult) : Prop :=
  ∀ (p d : Nat) (rest : List RxItem), RxStream.decode ⟨p, taken ++ rest, d⟩ = (o, ⟨p + taken.length, rest, d⟩)

/-- A `decode` that returns counts the free items it takes; where it takes none, it decodes just what it takes. -/
theorem RxStream.decode_local {r r' : RxStream} {o : DecodeResult} (h : r.decode = (o, r'))
    (ho : ∀ d, o ≠ .hangs d) (hd : r'.draws = r.draws) :
    ∃ taken, r.ahead = taken ++ r'.ahead ∧ DecodesJust taken o := by
  unfold RxStream.decode at h
  rcases h2 : RxStream.read 2 r with ⟨hdr, e, r1⟩
  rw [h2] at h
  cases e with
  | hangs => cases h; exact absurd rfl (ho _)
  | ended =>
    cases h
    obtain ⟨taken, hahead, hjust⟩ := (RxStream.read_local 2 h2 (by simp)).2 hd
    exact ⟨taken, hahead, fun p d rest => by unfold RxStream.decode; rw [hjust]⟩
  | full =>
    obtain ⟨hle1, hjust1⟩ := RxStream.read_local 2 h2 (by simp)
    dsimp only at h
    split at h
    · next hbad =>
      cases h
      obtain ⟨taken, hahead, hjust⟩ := hjust1 hd
      exact ⟨taken, hahead, fun p d rest => by unfold RxStream.decode; rw [hjust]; exact if_pos hbad⟩
    · next hmarker =>
      rcases h1 : RxStream.read 1 r1 with ⟨l, e, r2⟩
      rw [h1] at h
      cases e with
      | hangs => cases h; exact absurd rfl (ho _)
      | ended =>
        cases h
        obtain ⟨hle2, hjust2⟩ := RxStream.read_local 1 h1 (by simp)
        obtain ⟨taken1, hahead1, hjust1⟩ := hjust1 (by omega)
        obtain ⟨taken2, hahead2, hjust2⟩ := hjust2 (by omega)
        refine ⟨taken1 ++ taken2, by rw [hahead1, hahead2, List.append_assoc], fun p d rest => ?_⟩
        unfold RxStream.decode
        rw [List.append_assoc, hjust1]
        dsimp only
        rw [if_neg hmarker, hjust2, List.length_append, Nat.add_assoc]
      | full =>
        obtain ⟨hle2, hjust2⟩ := RxStream.read_local 1 h1 (by simp)
        dsimp only at h
        rcases h3 : RxStream.read ((l.headD 0#8).toNat + Config.trailerAfterLen) r2 with ⟨t, e, r3⟩
        rw [h3] at h
        have he3 : e ≠ .hangs := by
          rintro rfl
          cases h; exact ho _ rfl
        obtain ⟨hle3, hjust3⟩ := RxStream.read_local _ h3 he3
        have hr3 : r3 = r' := by cases e <;> cases h <;> rfl
        rw [← hr3] at hd ⊢
        obtain ⟨taken1, hahead1, hjust1⟩ := hjust1 (by omega)
        obtain ⟨taken2, hahead2, hjust2⟩ := hjust2 (by omega)
        obtain ⟨taken3, hahead3, hjust3⟩ := hjust3 (by omega)
        refine ⟨taken1 ++ (taken2 ++ taken3), by rw [hahead1, hahead2, hahead3, List.append_assoc, List.append_assoc],
          fun p d rest => ?_⟩
        unfold RxStream.decode
        rw [List.append_assoc, hjust1]
        dsimp only
        rw [if_neg hmarker, List.append_assoc, hjust2]
        dsimp only
        rw [hjust3, List.length_append, List.length_append, Nat.add_assoc, Nat.add_assoc]
        cases e with
        | hangs => exact absurd rfl he3
        | ended => cases h; rfl
        | full => cases h; rfl

/-- Settles O24: the count of free items did not move, so the items consumed are what `decode` took. -/
theorem decodeDependsOnlyOnItemsConsumed : Obligations.DecodeDependsOnlyOnItemsConsumed := by
  unfold Obligations.DecodeDependsOnlyOnItemsConsumed
  intro p d items rest o h ho p' d' rest'
  obtain ⟨taken, hahead, hjust⟩ := RxStream.decode_local h ho rfl
  obtain rfl : items = taken := List.append_cancel_right hahead
  exact hjust p' d' rest'

/-! ## The flags (R104) -/

/-- The checksum byte as a number: the sum of the summed bytes modulo 256 (R64). -/
theorem eq_checksum_iff (b : Option Byte) (bs : List Byte) :
    b = some (checksum bs) ↔ b.map BitVec.toNat = some (byteSum bs % 256) := by
  cases b with
  | none => simp
  | some b => simp [checksum, ← BitVec.toNat_inj]

/-- Settles O26: each flag is its formula, and `VALID` is `validFrame` of what was received. -/
theorem validFlagMeansValidFrame : Obligations.ValidFlagMeansValidFrame := by
  unfold Obligations.ValidFlagMeansValidFrame
  intro l t ht v
  refine ⟨decide_eq_true_iff, ?_, ?_, rfl, validate_valid_eq_validFrame ht⟩
  · rw [validate_chkOk, beq_iff_eq, eq_checksum_iff, byteSum_cons]
  · rw [validate_endOk, Bool.and_eq_true, beq_iff_eq, beq_iff_eq]

end Sys2Proof.Machine

/-! # The host's accesses, reset, and a step on a word (10_state.md, 20_memory.md, R115, R210) -/

namespace Sys2Proof.Machine

/-! ## Reset (R25, R210) -/

/-- Settles O1: the step is the reset, whose values are written out. -/
theorem resetInputGivesResetValues : Obligations.ResetInputGivesResetValues := by
  unfold Obligations.ResetInputGivesResetValues
  intro s rest hin
  have hstep : step s = .next (resetBy (dropInput rest s)) := by unfold step; rw [hin]
  exact ⟨_, hstep, rfl, rfl, rfl, rfl, rfl, rfl, rfl, rfl, rfl, rfl, rfl, rfl, rfl, rfl, rfl, fun _ => rfl, fun _ => rfl,
    fun _ => rfl, rfl⟩

/-- Settles O2: the values are written out in `State.reset`. -/
theorem resetStateHoldsSpecValues : Obligations.ResetStateHoldsSpecValues := by
  unfold Obligations.ResetStateHoldsSpecValues
  exact ⟨rfl, rfl, rfl, rfl, rfl, rfl, rfl, rfl, rfl, rfl, rfl, rfl⟩

/-! ## A word presented (R115) -/

/-- Settles O41: what is presented is decoded, and `latchOp` says what `OP` takes. -/
theorem stepRunsTheDecodedInstruction : Obligations.StepRunsTheDecodedInstruction := by
  unfold Obligations.StepRunsTheDecodedInstruction
  intro s w rest i hin hw
  rw [step_of_present hin, presentStep, hw]
  rfl

/-! ## Host writes (R15, R24) -/

theorem step_of_write {s : State} {w : OperandWrite} {rest : List Input} (h : s.inputs = .write w :: rest) :
    step s = writeStep w (dropInput rest s) := by
  unfold step
  rw [h]

/-- Settles O35: refused while `BUSY = 1`; otherwise by the register. -/
theorem hostWriteChangesOneOperand : Obligations.HostWriteChangesOneOperand := by
  unfold Obligations.HostWriteChangesOneOperand
  intro s w rest hin
  rw [step_of_write hin]
  refine ⟨fun hb => if_pos hb, fun hb => ?_⟩
  have hwrite : writeStep w (dropInput rest s) = writeOperand w (dropInput rest s) := if_neg (by simp [hb])
  rw [hwrite]
  cases w with
  | cmdId b => rfl
  | seqIn b => rfl
  | plen n => rfl
  | txbuf i b =>
    refine ⟨fun hi => if_neg (Nat.not_lt.mpr hi), fun hi => ⟨_, if_pos hi, fun a => ?_⟩⟩
    simp only [dropInput_opr, Memory.read_write, eq_comm]

/-! ## Host reads (R24, R47, R213) -/

theorem step_of_read {s : State} {r : ReadReg} {rest : List Input} (h : s.inputs = .read r :: rest) :
    step s = hostRead r (dropInput rest s) := by
  unfold step
  rw [h]

/-- What a host read returned, noted, and nothing else. -/
def noted (r : ReadReg) (v : Nat) (s : State) : State := { s with observed := s.observed ++ [⟨r, v⟩] }

theorem hostRead_next {r : ReadReg} {s t : State} (h : hostRead r s = .next t) : ∃ v, t = noted r v s := by
  unfold hostRead at h
  split at h
  · cases h
  · split at h
    · next v _ => cases h; exact ⟨v, rfl⟩
    · cases h

theorem readableWhileBusy_iff (r : ReadReg) :
    readableWhileBusy r = true ↔ r ∈ [ReadReg.seq, .linkOpen, .busy] := by
  cases r <;> simp [readableWhileBusy]

/-- A read that R213 allows returns the register's value. -/
theorem hostRead_value {r : ReadReg} {s : State} {v : Nat} (hok : s.busy = false ∨ readableWhileBusy r = true)
    (h : readReg r s = some v) : hostRead r s = .next (noted r v s) := by
  unfold hostRead
  rw [if_neg (by rcases hok with hok | hok <;> simp [hok]), h]
  rfl

/-- A read at an index that the buffer does not have faults (log 17). -/
theorem hostRead_fault {r : ReadReg} {s : State} (hok : s.busy = false ∨ readableWhileBusy r = true)
    (h : readReg r s = none) : hostRead r s = .fault .bufferIndexOutOfRange := by
  unfold hostRead
  rw [if_neg (by rcases hok with hok | hok <;> simp [hok]), h]

/-- A read within a buffer returns a byte, the one that stands there where it is specified (U3). -/
theorem readBuffer_some {size : Nat} (count : Nat) (m : Memory) {i : Nat} (draw : Nat) (hi : i < size) :
    ∃ b : Byte, readBuffer size count m i draw = some b.toNat ∧ (i < count → ∀ v, Memory.read m i = some v → b = v) := by
  unfold readBuffer
  rw [if_pos hi]
  cases hm : Memory.read m i with
  | none => exact ⟨_, rfl, fun _ _ hv => by cases hv⟩
  | some v =>
    by_cases hc : i < count
    · exact ⟨v, by simp [hc], fun _ _ hv => Option.some.inj hv⟩
    · exact ⟨Config.unspecifiedByte draw, by simp [hc], fun h => absurd h hc⟩

theorem readBuffer_none {size : Nat} (count : Nat) (m : Memory) {i : Nat} (draw : Nat) (hi : size ≤ i) :
    readBuffer size count m i draw = none := if_neg (Nat.not_lt.mpr hi)

/-- Settles O36: by `BUSY` and the register. -/
theorem hostReadHasNoSideEffect : Obligations.HostReadHasNoSideEffect := by
  unfold Obligations.HostReadHasNoSideEffect
  intro s r rest hin
  dsimp only
  rw [step_of_read hin]
  refine ⟨fun t h => hostRead_next h, fun hb hr => ?_, fun hok => ?_⟩
  · rw [← readableWhileBusy_iff, Bool.not_eq_true] at hr
    exact if_pos (by simp [hb, hr])
  · rw [← readableWhileBusy_iff] at hok
    cases r with
    | seq | linkOpen | status | busy | flen | rxLen | rxCnt | lenOk | chkOk | endOk | valid =>
      exact hostRead_value (s := dropInput rest s) hok rfl
    | fbuf i =>
      refine ⟨fun hi => hostRead_fault (s := dropInput rest s) hok (readBuffer_none _ _ _ hi), fun hi => ?_⟩
      obtain ⟨b, hb, hv⟩ := readBuffer_some s.enc.flen.toNat s.enc.fbuf s.observed.length hi
      exact ⟨b, hostRead_value (s := dropInput rest s) hok hb, hv⟩
    | rxbuf i =>
      refine ⟨fun hi => hostRead_fault (s := dropInput rest s) hok (readBuffer_none _ _ _ hi), fun hi => ?_⟩
      obtain ⟨b, hb, hv⟩ := readBuffer_some s.dec.rxCnt.toNat s.dec.rxbuf s.observed.length hi
      exact ⟨b, hostRead_value (s := dropInput rest s) hok hb, hv⟩

end Sys2Proof.Machine

/-! # The two realisations (43_byte_serial_machines.md, R157) -/

namespace Sys2Proof.Machine

/-! ## Runs of the machines -/

/-- `n` steps of the machines lead from `s` to `u`, with no input and `BUSY = 1` before each. -/
inductive BusyRun : Nat → State → State → Prop where
  | done (s : State) : BusyRun 0 s s
  | step {n : Nat} {s t u : State} (hin : s.inputs = []) (hb : s.busy = true) (h : machineStep s = .next t)
      (hrun : BusyRun n t u) : BusyRun (n + 1) s u

theorem BusyRun.trans {m n : Nat} {s t u : State} (h : BusyRun m s t) (h' : BusyRun n t u) : BusyRun (m + n) s u := by
  induction h with
  | done s => rwa [Nat.zero_add]
  | step hin hb hm _ ih => rw [Nat.add_right_comm]; exact .step hin hb hm (ih h')

theorem run_succ_of_step {M : Host.Core} {n : Nat} {s t : M.State} (h : M.step s = .next t) :
    M.run (n + 1) s = M.run n t := by
  rw [Host.Core.run, h]

/-- Such steps are the model's run. -/
theorem BusyRun.run {n : Nat} {s u : State} (h : BusyRun n s u) :
    Host.Core.run core n s = .next u ∧ ∀ k, k < n → ∃ v, Host.Core.run core k s = .next v ∧ v.busy = true := by
  induction h with
  | done s => exact ⟨rfl, fun k hk => absurd hk (Nat.not_lt_zero k)⟩
  | @step n s t u hin hb hm _ ih =>
    have hrun (k : Nat) : Host.Core.run core (k + 1) s = Host.Core.run core k t :=
      run_succ_of_step ((step_of_no_input hin hb).trans hm)
    refine ⟨(hrun n).trans ih.1, fun k hk => ?_⟩
    cases k with
    | zero => exact ⟨s, rfl, hb⟩
    | succ k =>
      obtain ⟨v, hv, hvb⟩ := ih.2 k (by omega)
      exact ⟨v, (hrun k).trans hv, hvb⟩

/-! ## The encoder runs through its frame -/

/-- The state in which the encoder has made the frame, before its completion: `FBUF`, the machine and `TX` are all it has
touched. -/
abbrev made (e : EncoderRegs) (m : EncMachine) (tx : List Byte) (s : State) : State :=
  { s with enc := e, em := m, tx := tx }

/-- The encoder result registers and `TX` with the whole of the frame `f` made from `s` on. -/
structure MadeFrame (f : List Byte) (s : State) (e : EncoderRegs) (m : EncMachine) (tx : List Byte) : Prop where
  flen : e.flen.toNat = f.length
  bytes : ∀ i < f.length, Memory.read e.fbuf i = f[i]?
  send : m.send = s.em.send
  nolink : m.nolink = s.em.nolink
  xRecv : m.xRecv = s.em.xRecv
  tx : tx = if s.em.send then s.tx ++ f.drop s.enc.flen.toNat else s.tx

theorem Encoding.state_eq_fin1_iff {s : State} (h : Encoding s) :
    s.em.state = .fin1 ↔ s.enc.flen.toNat = s.em.plen.toNat + 7 := by
  have hidx := h.idx
  rw [h.pos]
  unfold encPos
  cases hst : s.em.state <;> simp only [reduceCtorEq, false_iff, true_iff]
  case pay => have := hidx hst; omega
  all_goals omega

/-- What is still to be sent begins with the row's byte. -/
theorem Encoding.drop_eq {s : State} (h : Encoding s) :
    (encFrame s).drop s.enc.flen.toNat = rowByte s :: (encFrame s).drop (s.enc.flen.toNat + 1) := by
  rw [List.drop_eq_getElem?_toList_append, h.rowByte_eq]
  rfl

/-- From `k` bytes before its last one the encoder takes `k + 1` steps to the completion of its frame. -/
theorem Encoding.run (k : Nat) {s : State} (h : Encoding s) (hin : s.inputs = []) (hb : s.busy = true)
    (hk : s.enc.flen.toNat + k = s.em.plen.toNat + 7) :
    ∃ e m tx, BusyRun (k + 1) s (encDone (made e m tx s)) ∧ MadeFrame (encFrame s) s e m tx := by
  have hstep : machineStep s = encStep s := machineStep_enc h.active
  have hdrop := h.drop_eq
  induction k generalizing s with
  | zero =>
    have hfin : s.em.state = .fin1 := h.state_eq_fin1_iff.mpr hk
    obtain ⟨hflen, hbytes⟩ := h.done hfin
    have hrow : rowByte s = 0x0A#8 := by simp [rowByte, hfin]
    have hlast : (encFrame s).drop (s.enc.flen.toNat + 1) = [] :=
      List.drop_of_length_le (by rw [encFrame_length]; omega)
    refine ⟨(emitted 0x0A#8 s).enc, s.em, (emitted 0x0A#8 s).tx,
      .step hin hb (hstep.trans (encStep_fin1 hfin h.room)) (.done _), ?_⟩
    exact
      { flen := by rw [hflen, encFrame_length]
        bytes := by rw [encFrame_length]; exact hbytes
        send := rfl
        nolink := rfl
        xRecv := rfl
        tx := by rw [hdrop, hlast, hrow]; rfl }
  | succ k ih =>
    have hne : s.em.state ≠ .fin1 := fun hfin => by have := h.state_eq_fin1_iff.mp hfin; omega
    obtain ⟨hframe, -, hplen⟩ := rowStep_frame s
    obtain ⟨-, -, -, hsend, hnolink, hxRecv⟩ := rowMachine_keeps (rowByte s) s.em
    have hflen : (Machine.rowStep s).enc.flen.toNat = s.enc.flen.toNat + 1 := emitted_flen_toNat h.room _
    have hnext := h.rowStep hne
    obtain ⟨e, m, tx, hrun, hmade⟩ := ih hnext hin hb (by rw [hflen, hplen]; omega) (machineStep_enc hnext.active)
      hnext.drop_eq
    rw [hframe] at hmade
    refine ⟨e, m, tx, .step hin hb (hstep.trans (encStep_row h.active hne h.room)) hrun, ?_⟩
    exact
      { flen := hmade.flen
        bytes := hmade.bytes
        send := hmade.send.trans hsend
        nolink := hmade.nolink.trans hnolink
        xRecv := hmade.xRecv.trans hxRecv
        tx := by
          have htx := hmade.tx
          rw [hflen, show (Machine.rowStep s).em.send = s.em.send from hsend] at htx
          rw [htx, hdrop]
          by_cases hs : s.em.send = true
          · rw [if_pos hs, if_pos hs, show (Machine.rowStep s).tx = s.tx ++ [rowByte s] from if_pos hs, List.append_assoc]
            rfl
          · rw [if_neg hs, if_neg hs]
            exact if_neg hs }

/-- The frame that an issued ENC (`true`), SEND or XFER (`false`) makes. -/
def issuedFrame (isEnc : Bool) (s : State) : List Byte :=
  frameBytes (sampleCmdId s) (if isEnc then sampleSeqIn s else s.seq) (samplePayload s)

/-- The encoder's state right after the issue (R141). -/
abbrev issued (isEnc isXfer : Bool) (s : State) : State :=
  setBusy true (setEm (issuedMachine isEnc isXfer s) (clearEnc (chargeHost isEnc s)))

theorem encFrame_issued {isEnc isXfer : Bool} {s : State} (hp : (samplePlen s).toNat ≤ 253) :
    encFrame (issued isEnc isXfer s) = issuedFrame isEnc s := by
  have hpay : machinePayload (issued isEnc isXfer s) = samplePayload s := by
    unfold machinePayload samplePayload
    rw [show (issued isEnc isXfer s).em.plen.toNat = (samplePlen s).toNat from setWidth_plen_toNat hp]
    rfl
  unfold encFrame
  rw [hpay]
  rfl

/-- An issued operation that encodes takes `PLEN + 8` steps to the completion of its frame. -/
theorem issueEncode_run {isEnc isXfer : Bool} (hx : isXfer = true → isEnc = false) {s : State} (hin : s.inputs = [])
    (hp : (samplePlen s).toNat ≤ 253) :
    ∃ e m tx, BusyRun ((samplePlen s).toNat + 8) (issueEncode isEnc isXfer s)
        (encDone (made e m tx (issued isEnc isXfer s))) ∧
      MadeFrame (issuedFrame isEnc s) (issued isEnc isXfer s) e m tx := by
  have hstart : Encoding (issued isEnc isXfer s) := (issued_issuedMachine hx hp).encoding (t := chargeHost isEnc s)
  have hplen : (issued isEnc isXfer s).em.plen.toNat = (samplePlen s).toNat := setWidth_plen_toNat hp
  rw [issueEncode_started _ _ hp, ← encFrame_issued hp]
  exact hstart.run ((samplePlen s).toNat + 7) hin rfl (by rw [hplen]; exact Nat.zero_add _)

/-! ## The decoder comes to what `decode` comes to -/

/-- The decoder result registers hold the received frame `f` and its flags; bytes past it are left open. -/
structure HoldsAtLeast (f : Frame) (d : DecoderRegs) : Prop where
  rxLen : d.rxLen = f.len
  rxCnt : d.rxCnt.toNat = f.trail.length
  bytes : ∀ i < f.trail.length, Memory.read d.rxbuf i = f.trail[i]?
  flags : d.flags = validate f

/-- From `s` the decoder comes to `o`, with the stream `r'` left, in a step for each item taken; where `o` is a read that
does not return, to a state that waits for it. -/
def DecoderEnds (s : State) (o : DecodeResult) (r' : RxStream) : Prop :=
  match o with
  | .frame f => ∃ n d m, r'.pos = s.rx.pos + n ∧
      BusyRun n s { s with rx := r', dec := d, dm := m, status := 0#3, busy := false } ∧ m.state = .idle ∧
      HoldsAtLeast f d
  | .error k => ∃ n b m, r'.pos = s.rx.pos + n ∧
      BusyRun n s { s with rx := r', dec := noFrame b, dm := m, status := k.code, busy := false } ∧ m.state = .idle
  | .hangs w => ∃ n d m r, BusyRun n s { s with rx := r, dec := d, dm := m } ∧ m.state = w ∧ r.item = (.never, r')

/-- A decoder in the middle of an operation, with no input. -/
structure DecoderRuns (s : State) : Prop where
  inputs : s.inputs = []
  busy : s.busy = true
  em : s.em.state = .idle
  dm : s.dm.state ≠ .idle

theorem DecoderRuns.step {s : State} (h : DecoderRuns s) : machineStep s = decStep s := machineStep_dec h.em h.dm

theorem decStep_of_item_byte {s : State} {b : Byte} {r : RxStream} (h : s.rx.item = (.byte b, r)) :
    decStep s = decByte b (setRx r s) := by
  unfold decStep
  rw [h]

theorem item_byte_pos {r r' : RxStream} {b : Byte} (h : r.item = (.byte b, r')) : r'.pos = r.pos + 1 := by
  have := RxStream.item_cases h
  simpa using this

theorem item_end_pos {r r' : RxStream} (h : r.item = (.streamEnd, r')) : r'.pos = r.pos + 1 := by
  have := RxStream.item_cases h
  simpa using this

section Ends

variable {s : State} (hs : DecoderRuns s)
include hs

/-- A step that takes a byte and goes on. -/
theorem DecoderEnds.byte {b : Byte} {r r' : RxStream} {d : DecoderRegs} {m : DecMachine} {o : DecodeResult}
    (hi : s.rx.item = (.byte b, r)) (hrow : decByte b (setRx r s) = .next { s with rx := r, dec := d, dm := m })
    (h : DecoderEnds { s with rx := r, dec := d, dm := m } o r') : DecoderEnds s o r' := by
  have hstep : machineStep s = .next { s with rx := r, dec := d, dm := m } :=
    hs.step.trans ((decStep_of_item_byte hi).trans hrow)
  have hpos := item_byte_pos hi
  cases o with
  | frame f =>
    obtain ⟨n, d', m', hr, hrun, hm, hf⟩ := h
    exact ⟨n + 1, d', m', by rw [hr]; dsimp only; omega, .step hs.inputs hs.busy hstep hrun, hm, hf⟩
  | error k =>
    obtain ⟨n, b', m', hr, hrun, hm⟩ := h
    exact ⟨n + 1, b', m', by rw [hr]; dsimp only; omega, .step hs.inputs hs.busy hstep hrun, hm⟩
  | hangs w =>
    obtain ⟨n, d', m', r1, hrun, hm, hr⟩ := h
    exact ⟨n + 1, d', m', r1, .step hs.inputs hs.busy hstep hrun, hm, hr⟩

/-- `End` in any state (R153). -/
theorem DecoderEnds.streamEnd {r : RxStream} (hi : s.rx.item = (.streamEnd, r)) :
    DecoderEnds s (.error .truncated) r := by
  have hstep : machineStep s = .next (decError .truncated (setRx r s)) := by
    rw [hs.step, decStep, hi]
  exact ⟨1, s.dec.rxbuf, _, item_end_pos hi, .step hs.inputs hs.busy hstep (.done _), rfl⟩

omit hs in
/-- `Never` in any state (R42). -/
theorem DecoderEnds.never {r : RxStream} (hi : s.rx.item = (.never, r)) : DecoderEnds s (.hangs s.dm.state) r :=
  ⟨0, s.dec, s.dm, s.rx, .done s, rfl, hi⟩

/-- The second start byte, where the marker does not match (R153). -/
theorem DecoderEnds.badHeader {b : Byte} {r : RxStream} (hi : s.rx.item = (.byte b, r)) (hst : s.dm.state = .hdr1)
    (hbad : ¬(s.dm.h0 = 0xAA#8 ∧ b = 0xAA#8)) : DecoderEnds s (.error .badHeader) r := by
  have hrow : decByte b (setRx r s) = .next (decError .badHeader (setRx r s)) := by
    rw [decByte, setRx_dm, hst]
    exact congrArg _ (if_neg hbad)
  have hstep := hs.step.trans ((decStep_of_item_byte hi).trans hrow)
  exact ⟨1, s.dec.rxbuf, _, item_byte_pos hi, .step hs.inputs hs.busy hstep (.done _), rfl⟩

/-- The last byte of the body (R154). -/
theorem DecoderEnds.last {b : Byte} {bs : List Byte} {r : RxStream} (hi : s.rx.item = (.byte b, r))
    (hrun : Decoding s bs) (hlast : s.dm.rem.toNat = 1) : DecoderEnds s (.frame ⟨s.dec.rxLen, bs ++ [b]⟩) r := by
  have hrun' : Decoding (setRx r s) bs := Decoding.of_same (s := s) rfl rfl hrun
  have hrow : decByte b (setRx r s) = .next (decDone (stored b (setRx r s))) := by
    rw [decByte, setRx_dm, hrun.body]
    exact (decBody_cases hrun'.room hrun'.more).2 hlast
  have hstep := hs.step.trans ((decStep_of_item_byte hi).trans hrow)
  refine ⟨1, (decDone (stored b (setRx r s))).dec, (decDone (stored b (setRx r s))).dm, item_byte_pos hi,
    .step hs.inputs hs.busy hstep (.done _), rfl, ?_⟩
  exact
    { rxLen := rfl
      rxCnt := hrun'.stored_cnt b
      bytes := hrun'.stored_bytes b
      flags := (hrun'.done b hlast).2 }

end Ends

/-- What a read of a part of the frame that comes to `whole` when it is all there comes to by its end. -/
def readResult (whole : DecodeResult) (w : DState) : ReadEnd → DecodeResult
  | .full => whole
  | .ended => .error .truncated
  | .hangs => .hangs w

/-- The decoder in the body comes to what the read of the remaining bytes comes to. -/
theorem Decoding.ends (n : Nat) {s : State} {bs ts : List Byte} {e : ReadEnd} {r' : RxStream} (hs : DecoderRuns s)
    (hrun : Decoding s bs) (hn : s.dm.rem.toNat = n) (h : RxStream.read n s.rx = (ts, e, r')) :
    DecoderEnds s (readResult (.frame ⟨s.dec.rxLen, bs ++ ts⟩) .body e) r' := by
  induction n generalizing s bs ts with
  | zero => have := hrun.more; omega
  | succ n ih =>
    rw [RxStream.read] at h
    rcases hi : s.rx.item with ⟨it, r⟩
    rw [hi] at h
    cases it with
    | streamEnd => cases h; exact DecoderEnds.streamEnd hs hi
    | never =>
      cases h
      have hwaits := DecoderEnds.never hi
      rw [hrun.body] at hwaits
      exact hwaits
    | byte b =>
      rcases hr : RxStream.read n r with ⟨ts1, e1, r2⟩
      simp only [hr] at h
      cases h
      have hrun' : Decoding (setRx r s) bs := Decoding.of_same (s := s) rfl rfl hrun
      cases n with
      | zero =>
        cases hr
        exact DecoderEnds.last hs hi hrun hn
      | succ n =>
        have hmore : 1 < (setRx r s).dm.rem.toNat := by rw [setRx_dm]; omega
        have hleft := stored_rem_toNat b (setRx r s) hrun'.more
        have hnext := hrun'.stored b hmore
        have hrow : decByte b (setRx r s) = .next (Machine.stored b (setRx r s)) := by
          rw [decByte, setRx_dm, hrun.body]
          exact (decBody_cases hrun'.room hrun'.more).1 hmore
        have hends := ih (s := Machine.stored b (setRx r s)) ⟨hs.inputs, hs.busy, hs.em, by simp [hnext.body]⟩ hnext
          (by rw [setRx_dm] at hleft; omega) hr
        rw [List.append_assoc] at hends
        exact DecoderEnds.byte hs hi hrow hends

theorem RxStream.read_succ_byte {r r1 : RxStream} {b : Byte} (n : Nat) (h : r.item = (.byte b, r1)) :
    RxStream.read (n + 1) r = (b :: (RxStream.read n r1).1, (RxStream.read n r1).2) := by
  rw [RxStream.read, h]

theorem RxStream.read_succ_end {r r1 : RxStream} (n : Nat) (h : r.item = (.streamEnd, r1)) :
    RxStream.read (n + 1) r = ([], .ended, r1) := by
  rw [RxStream.read, h]

theorem RxStream.read_succ_never {r r1 : RxStream} (n : Nat) (h : r.item = (.never, r1)) :
    RxStream.read (n + 1) r = ([], .hangs, r1) := by
  rw [RxStream.read, h]

/-- After the marker the decoder comes to what `decode` of the whole stream `r0` comes to. -/
theorem decoder_ends_afterMarker {s : State} {o : DecodeResult} {r0 r' : RxStream} (hs : DecoderRuns s)
    (hst : s.dm.state = .len) (hcnt : s.dec.rxCnt.toNat = 0)
    (hmarker : RxStream.read 2 r0 = ([0xAA#8, 0xAA#8], .full, s.rx)) (h : r0.decode = (o, r')) : DecoderEnds s o r' := by
  unfold RxStream.decode at h
  rw [hmarker] at h
  rcases hi : s.rx.item with ⟨l | _ | _, r⟩
  case streamEnd =>
    dsimp only at h
    rw [RxStream.read_succ_end 0 hi] at h
    cases h
    exact DecoderEnds.streamEnd hs hi
  case never =>
    dsimp only at h
    rw [RxStream.read_succ_never 0 hi] at h
    cases h
    exact hst ▸ DecoderEnds.never hi
  have hlen : RxStream.read 1 s.rx = ([l], .full, r) := RxStream.read_succ_byte 0 hi
  dsimp only at h
  rw [if_neg (by simp [Config.startByte]), hlen] at h
  have hrow : decByte l (setRx r s) = .next (lenRow l (setRx r s)) := by
    rw [decByte, setRx_dm, hst]
    rfl
  have hbody : Decoding (lenRow l (setRx r s)) [] := Decoding.start hcnt
  have hruns : DecoderRuns (lenRow l (setRx r s)) := ⟨hs.inputs, hs.busy, hs.em, by simp [hbody.body]⟩
  rcases hr : RxStream.read (l.toNat + Config.trailerAfterLen) r with ⟨t, e, r3⟩
  have hends := hbody.ends (l.toNat + 3) hruns (lenRow_rem_toNat l _) hr
  have hread : (o, r') = (readResult (.frame ⟨l, t⟩) .body e, r3) := by
    rw [← h]
    dsimp only [List.headD_cons]
    rw [hr]
    cases e <;> rfl
  cases hread
  exact DecoderEnds.byte hs hi hrow hends

/-- From its start the decoder comes to what `decode` comes to. -/
theorem decoder_ends {s : State} {o : DecodeResult} {r' : RxStream} (hs : DecoderRuns s) (hst : s.dm.state = .hdr0)
    (hcnt : s.dec.rxCnt.toNat = 0) (h : s.rx.decode = (o, r')) : DecoderEnds s o r' := by
  have hdec := h
  unfold RxStream.decode at h
  rcases hi0 : s.rx.item with ⟨b0 | _ | _, r0⟩
  case streamEnd => rw [RxStream.read_succ_end 1 hi0] at h; cases h; exact DecoderEnds.streamEnd hs hi0
  case never => rw [RxStream.read_succ_never 1 hi0] at h; cases h; exact hst ▸ DecoderEnds.never hi0
  have hrow0 : decByte b0 (setRx r0 s) = .next { s with rx := r0, dm := { s.dm with h0 := b0, state := .hdr1 } } := by
    rw [decByte, setRx_dm, hst]
    rfl
  refine DecoderEnds.byte hs hi0 hrow0 ?_
  have hs1 : DecoderRuns { s with rx := r0, dm := { s.dm with h0 := b0, state := .hdr1 } } :=
    ⟨hs.inputs, hs.busy, hs.em, by simp⟩
  rcases hi1 : r0.item with ⟨b1 | _ | _, r1⟩
  case streamEnd =>
    rw [RxStream.read_succ_byte 1 hi0, RxStream.read_succ_end 0 hi1] at h
    cases h
    exact DecoderEnds.streamEnd hs1 hi1
  case never =>
    rw [RxStream.read_succ_byte 1 hi0, RxStream.read_succ_never 0 hi1] at h
    cases h
    exact DecoderEnds.never hi1
  have hread : RxStream.read 2 s.rx = ([b0, b1], .full, r1) := by
    rw [RxStream.read_succ_byte 1 hi0, RxStream.read_succ_byte 0 hi1]
    rfl
  by_cases hmarker : b0 = 0xAA#8 ∧ b1 = 0xAA#8
  · obtain ⟨rfl, rfl⟩ := hmarker
    exact DecoderEnds.byte (m := { s.dm with h0 := 0xAA#8, state := .len }) hs1 hi1 rfl
      (decoder_ends_afterMarker ⟨hs.inputs, hs.busy, hs.em, by simp⟩ rfl hcnt hread hdec)
  · have hbad : [b0, b1] ≠ [Config.startByte, Config.startByte] := fun heq => hmarker (by simpa [Config.startByte] using heq)
    rw [hread] at h
    cases h.symm.trans (if_pos hbad)
    exact DecoderEnds.badHeader hs1 hi1 rfl hmarker

/-! ## A decoder that starts where the whole operation receives -/

/-- The decoder starts in `a` where the whole operation is in `b`: they agree on everything but what a reception
writes. -/
structure StartsAs (a b : State) : Prop where
  runs : DecoderRuns a
  start : a.dm.state = .hdr0
  cnt : a.dec.rxCnt.toNat = 0
  busy : b.busy = false
  open_ : b.linkOpen = true
  seq : a.seq = b.seq
  linkOpen : a.linkOpen = b.linkOpen
  tx : a.tx = b.tx
  rx : a.rx = b.rx
  status : a.status = b.status
  opr : a.opr = b.opr
  flen : a.enc.flen = b.enc.flen
  fbuf : ∀ i, i < b.enc.flen.toNat → Memory.read a.enc.fbuf i = Memory.read b.enc.fbuf i
  env : a.env = b.env
  inputs : a.inputs = b.inputs
  observed : a.observed = b.observed
  hostFault : a.hostFault = b.hostFault

theorem idle_iff {s : State} : s.idle = true ↔ s.busy = false ∧ s.em.state = .idle ∧ s.dm.state = .idle := by
  simp [State.idle, and_assoc]

/-- Where the reception completes, the decoder completes after a step for each item consumed, and agrees (R157). -/
theorem StartsAs.agrees {a b : State} (h : StartsAs a b) (hb : (recvOp b).busy = false) :
    ∃ u, BusyRun ((recvOp b).rx.pos - b.rx.pos) a u ∧ u.idle = true ∧ Agree u (recvOp b) := by
  rcases hd : b.rx.decode with ⟨o, r⟩
  have hends := decoder_ends h.runs h.start h.cnt (h.rx ▸ hd)
  rcases RxStream.decode_cases hd with ⟨f, rfl, hlen, -⟩ | hcase
  · obtain ⟨n, d, m, hpos, hrun, hm, hf⟩ := hends
    rw [recvOp_received h.open_ hd]
    obtain rfl : n = r.pos - b.rx.pos := by rw [hpos, h.rx]; omega
    have hcnt : d.rxCnt = (receivedRegs f).rxCnt := BitVec.eq_of_toNat_eq (hf.rxCnt.trans (receivedRegs_cnt hlen).symm)
    have hbytes : ∀ i, i < (receivedRegs f).rxCnt.toNat →
        Memory.read d.rxbuf i = Memory.read (receivedRegs f).rxbuf i := fun i hi => by
      rw [receivedRegs_cnt hlen] at hi
      rw [hf.bytes i hi, Memory.read_ofBytes_zero]
    refine ⟨_, hrun, idle_iff.mpr ⟨rfl, h.runs.em, hm⟩, ?_⟩
    exact ⟨h.seq, h.linkOpen, h.tx, rfl, rfl, h.busy.symm, h.opr, h.flen, h.fbuf, hf.rxLen, hcnt, hbytes, hf.flags,
      h.env, h.inputs, h.observed, h.hostFault⟩
  · have herror (k : ErrorKind) (ho : o = .error k) :
        ∃ u, BusyRun ((recvOp b).rx.pos - b.rx.pos) a u ∧ u.idle = true ∧ Agree u (recvOp b) := by
      subst ho
      obtain ⟨n, buf, m, hpos, hrun, hm⟩ := hends
      rw [recvOp_error h.open_ hd]
      obtain rfl : n = r.pos - b.rx.pos := by rw [hpos, h.rx]; omega
      refine ⟨_, hrun, idle_iff.mpr ⟨rfl, h.runs.em, hm⟩, ?_⟩
      exact ⟨h.seq, h.linkOpen, h.tx, rfl, rfl, h.busy.symm, h.opr, h.flen, h.fbuf, rfl, rfl,
        fun i hi => absurd hi (Nat.not_lt_zero i), rfl, h.env, h.inputs, h.observed, h.hostFault⟩
    rcases hcase with ⟨rfl, -⟩ | ⟨rfl, -⟩ | ⟨d, rfl, -⟩
    · exact herror _ rfl
    · exact herror _ rfl
    · rw [recvOp_hangs h.open_ hd] at hb
      cases hb

/-- What R42 and R157 say of a byte-serial operation that waits for ever where the whole one, `t`, does. -/
structure WaitsAs (u t : State) : Prop where
  busy : u.busy = true
  inputs : u.inputs = []
  never : machineStep u = .fault .readNeverReturns
  tx : u.tx = t.tx
  seq : u.seq = t.seq
  status : u.status = t.status
  pos : u.rx.pos = t.rx.pos
  state : u.dm.state = t.dm.state

/-- Where the reception never completes, the decoder comes to a step that never returns. -/
theorem StartsAs.waits {a b : State} (h : StartsAs a b) (hb : (recvOp b).busy = true) :
    ∃ n u, BusyRun n a u ∧ WaitsAs u (recvOp b) := by
  rcases hd : b.rx.decode with ⟨f | k | w, r⟩
  · rw [recvOp_received h.open_ hd] at hb
    exact absurd (h.busy.symm.trans hb) (by simp)
  · rw [recvOp_error h.open_ hd] at hb
    exact absurd (h.busy.symm.trans hb) (by simp)
  · obtain ⟨n, d, m, r1, hrun, hm, hi⟩ := decoder_ends h.runs h.start h.cnt (h.rx ▸ hd)
    rw [recvOp_hangs h.open_ hd]
    have hw : w ≠ .idle := by
      obtain ⟨f, hf, -⟩ | ⟨hk, -⟩ | ⟨hk, -⟩ | ⟨d, hw, hd, -⟩ := RxStream.decode_cases hd
      · cases hf
      · cases hk
      · cases hk
      · cases hw; exact hd
    have hpos : r.pos = r1.pos := by
      obtain ⟨hne, -⟩ | ⟨-, hpos, -⟩ := RxStream.item_cases hi
      · exact absurd rfl hne
      · exact hpos
    let u : State := { a with rx := r1, dec := d, dm := m }
    have hwaits : u.dm.state ≠ .idle := fun hidle => hw (hm.symm.trans hidle)
    have hnever : decStep u = .fault .readNeverReturns := decStep_never (by rw [hi])
    refine ⟨n, u, hrun, ?_⟩
    exact
      { busy := h.runs.busy
        inputs := h.runs.inputs
        never := (machineStep_dec (s := u) h.runs.em hwaits).trans hnever
        tx := h.tx
        seq := h.seq
        status := h.status
        pos := hpos.symm
        state := hm }

/-! ## One operation in the two realisations -/

theorem op_cases (op : BitVec 3) :
    op = 0#3 ∨ op = 1#3 ∨ op = 2#3 ∨ op = 3#3 ∨ op = 4#3 ∨ op = 5#3 ∨ op = 6#3 ∨ op = 7#3 := by
  revert op
  decide

/-- From `a` the byte-serial realisation comes to what the whole operation has left, `t`: to its end after `n` steps, or
to a step that never returns. -/
structure Realises (n : Nat) (a t : State) : Prop where
  ends : t.busy = false → ∃ u, BusyRun n a u ∧ u.idle = true ∧ Agree u t
  hangs : t.busy = true → ∃ k u, BusyRun k a u ∧ WaitsAs u t

/-- Where the whole operation completes, its end is all there is to show. -/
theorem Realises.of_completes {n : Nat} {a u t : State} (hrun : BusyRun n a u) (hu : u.idle = true) (h : Agree u t) :
    Realises n a t := by
  have hb : t.busy = false := h.busy.symm.trans (idle_iff.mp hu).1
  exact ⟨fun _ => ⟨u, hrun, hu, h⟩, fun hbusy => absurd (hb.symm.trans hbusy) (by simp)⟩

/-- An operation that completes at its issue. -/
theorem Realises.of_issue {u t : State} (hu : u.idle = true) (h : Agree u t) : Realises 0 u t :=
  .of_completes (.done u) hu h

/-- A run of the machines before a decoder that starts. -/
theorem StartsAs.realises {k n : Nat} {a u b : State} (hrun : BusyRun k a u) (h : StartsAs u b)
    (hn : n = k + ((recvOp b).rx.pos - b.rx.pos)) : Realises n a (recvOp b) := by
  constructor
  · intro hb
    obtain ⟨v, hv, hidle, hagree⟩ := h.agrees hb
    exact ⟨v, hn ▸ hrun.trans hv, hidle, hagree⟩
  · intro hb
    obtain ⟨j, v, hv, hwaits⟩ := h.waits hb
    exact ⟨k + j, v, hrun.trans hv, hwaits⟩

theorem Agree.refl (s : State) : Agree s s :=
  ⟨rfl, rfl, rfl, rfl, rfl, rfl, rfl, rfl, fun _ _ => rfl, rfl, rfl, fun _ _ => rfl, rfl, rfl, rfl, rfl, rfl⟩

theorem idle_of_between {s t : State} (h : Between s t) (hs : s.idle = true) : t.idle = true := by
  obtain ⟨hb, he, hd⟩ := h.machines
  rw [idle_iff] at hs ⊢
  rwa [hb, he, hd]

/-- What the encoder has made is what `StoreFrame` stores. -/
theorem MadeFrame.regs {f : List Byte} {s : State} {e : EncoderRegs} {m : EncMachine} {tx : List Byte}
    (h : MadeFrame f s e m tx) : e.flen = BitVec.ofNat 9 f.length ∧
      ∀ i < (BitVec.ofNat 9 f.length).toNat, Memory.read e.fbuf i = Memory.read (Memory.ofBytes 0 f) i := by
  have hflen : e.flen = BitVec.ofNat 9 f.length := by rw [← h.flen, BitVec.ofNat_toNat, BitVec.setWidth_eq]
  refine ⟨hflen, fun i hi => ?_⟩
  rw [← hflen, h.flen] at hi
  rw [h.bytes i hi, Memory.read_ofBytes_zero]

section Operations

variable {s : State} (hin : s.inputs = []) (hs : s.idle = true)
include hs

theorem realises_tooLong (isEnc isXfer : Bool) (hp : 253 < (samplePlen s).toNat) :
    Realises 0 (issueEncode isEnc isXfer s)
      (setStatus 4#3 (storeFrame (.error .invalidArgument) (chargeHost isEnc s))) := by
  rw [issueEncode_tooLong _ _ hp]
  exact .of_issue hs ⟨rfl, rfl, rfl, rfl, rfl, rfl, rfl, rfl, fun i hi => absurd hi (Nat.not_lt_zero i), rfl, rfl,
    fun _ _ => rfl, rfl, rfl, rfl, rfl, rfl⟩

include hin

/-- An encoder that sends nothing ends with its frame in `FBUF`. -/
theorem realises_notSent {isEnc isXfer : Bool} (hx : isXfer = true → isEnc = false) {k : BitVec 3}
    (hp : (samplePlen s).toNat ≤ 253) (hsend : (issuedMachine isEnc isXfer s).send = false)
    (hdone : ∀ u : State, u.em.nolink = (issuedMachine isEnc isXfer s).nolink → u.em.send = false →
      encDone u = setBusy false (setStatus k (encTo .idle u))) :
    Realises ((samplePlen s).toNat + 8) (issueEncode isEnc isXfer s)
      (setStatus k (storeFrame (.ok (issuedFrame isEnc s)) (chargeHost isEnc s))) := by
  obtain ⟨hb, -, hd⟩ := idle_iff.mp hs
  obtain ⟨e, m, tx, hrun, hmade⟩ := issueEncode_run hx hin hp
  rw [hdone _ hmade.nolink (hmade.send.trans hsend)] at hrun
  obtain ⟨hflen, hbytes⟩ := hmade.regs
  have htx : tx = s.tx := hmade.tx.trans (if_neg (by simp [hsend]))
  refine .of_completes hrun (idle_iff.mpr ⟨rfl, rfl, hd⟩) ?_
  exact ⟨rfl, rfl, htx, rfl, rfl, hb.symm, rfl, hflen, hbytes, rfl, rfl, fun _ _ => rfl, rfl, rfl, rfl, rfl, rfl⟩

theorem realises_closed (isXfer : Bool) (hp : (samplePlen s).toNat ≤ 253) (hl : s.linkOpen = false) :
    Realises ((samplePlen s).toNat + 8) (issueEncode false isXfer s)
      (setStatus 1#3 (storeFrame (.ok (sendFrame s)) (chargeHost false s))) :=
  realises_notSent hin hs (fun _ => rfl) hp (by simp [issuedMachine, hl])
    fun _ hn _ => encDone_noLink (hn.trans (by simp [issuedMachine, hl]))

theorem realises_enc : Realises (serialSteps .enc s (encOp s)) (issueEncode true false s) (encOp s) := by
  unfold serialSteps
  dsimp only
  rcases Nat.lt_or_ge 253 (samplePlen s).toNat with hp | hp
  · rw [encOp_tooLong hp, plenTooLong_eq_true hp]
    exact realises_tooLong hs true false hp
  · rw [encOp_built hp, plenTooLong_eq_false hp]
    exact realises_notSent hin hs (by simp) hp rfl fun _ hn hsend => encDone_enc hn hsend

omit hs in
/-- A frame that an open link sends: the state before the completion of SEND or XFER. -/
theorem issueEncode_sends (isXfer : Bool) (hp : (samplePlen s).toNat ≤ 253) (hl : s.linkOpen = true) :
    ∃ e m, BusyRun ((samplePlen s).toNat + 8) (issueEncode false isXfer s)
        (encDone (made e m (s.tx ++ sendFrame s) (issued false isXfer s))) ∧
      m.nolink = false ∧ m.send = true ∧ m.xRecv = isXfer ∧ e.flen = (afterSend s).enc.flen ∧
      ∀ i < (afterSend s).enc.flen.toNat, Memory.read e.fbuf i = Memory.read (afterSend s).enc.fbuf i := by
  obtain ⟨e, m, tx, hrun, hmade⟩ := issueEncode_run (isEnc := false) (isXfer := isXfer) (fun _ => rfl) hin hp
  have hsend : (issuedMachine false isXfer s).send = true := by simp [issuedMachine, hl]
  have htx : tx = s.tx ++ sendFrame s := hmade.tx.trans (if_pos hsend)
  obtain ⟨hflen, hbytes⟩ := hmade.regs
  refine ⟨e, m, htx ▸ hrun, hmade.nolink.trans ?_, hmade.send.trans hsend, hmade.xRecv.trans ?_, hflen, hbytes⟩
  · simp [issuedMachine, hl]
  · simp [issuedMachine, hl]

theorem realises_send : Realises (serialSteps .send s (sendOp s)) (issueEncode false false s) (sendOp s) := by
  obtain ⟨hb, -, hd⟩ := idle_iff.mp hs
  unfold serialSteps
  dsimp only
  rcases Nat.lt_or_ge 253 (samplePlen s).toNat with hp | hp
  · rw [sendOp_tooLong hp, plenTooLong_eq_true hp]
    exact realises_tooLong hs false false hp
  rw [plenTooLong_eq_false hp]
  cases hl : s.linkOpen with
  | false =>
    rw [sendOp_closed hp hl]
    exact realises_closed hin hs false hp hl
  | true =>
    obtain ⟨e, m, hrun, hnolink, hsend, hx, hflen, hbytes⟩ := issueEncode_sends hin false hp hl
    rw [encDone_send hnolink hsend hx] at hrun
    rw [sendOp_sent hp hl]
    refine .of_completes hrun (idle_iff.mpr ⟨rfl, rfl, hd⟩) ?_
    exact ⟨rfl, rfl, rfl, rfl, rfl, hb.symm, rfl, hflen, hbytes, rfl, rfl, fun _ _ => rfl, rfl, rfl, rfl, rfl, rfl⟩

theorem realises_xfer : Realises (serialSteps .xfer s (xferOp s)) (issueEncode false true s) (xferOp s) := by
  obtain ⟨hb, -, hd⟩ := idle_iff.mp hs
  unfold serialSteps
  dsimp only
  rcases Nat.lt_or_ge 253 (samplePlen s).toNat with hp | hp
  · rw [xferOp_failed (.inl hp), sendOp_tooLong hp, plenTooLong_eq_true hp]
    change Realises (0 + (s.rx.pos - s.rx.pos)) _ _
    rw [Nat.sub_self]
    exact realises_tooLong hs false true hp
  rw [plenTooLong_eq_false hp]
  cases hl : s.linkOpen with
  | false =>
    rw [xferOp_failed (.inr hl), sendOp_closed hp hl]
    change Realises (_ + (s.rx.pos - s.rx.pos)) _ _
    rw [Nat.sub_self, if_neg Bool.false_ne_true]
    exact realises_closed hin hs true hp hl
  | true =>
    obtain ⟨e, m, hrun, hnolink, hsend, hx, hflen, hbytes⟩ := issueEncode_sends hin true hp hl
    rw [encDone_xfer hnolink hsend hx] at hrun
    rw [xferOp_sent hp hl]
    refine StartsAs.realises hrun ?_ rfl
    exact
      { runs := ⟨hin, rfl, rfl, by simp⟩, start := rfl, cnt := rfl, busy := hb, open_ := hl, seq := rfl, linkOpen := rfl
        tx := rfl, rx := rfl, status := rfl, opr := rfl, flen := hflen, fbuf := hbytes, env := rfl, inputs := rfl
        observed := rfl, hostFault := rfl }

theorem realises_recv : Realises (serialSteps .recv s (recvOp s)) (issueDecode s) (recvOp s) := by
  obtain ⟨hb, he, -⟩ := idle_iff.mp hs
  unfold serialSteps
  dsimp only
  cases hl : s.linkOpen with
  | false =>
    rw [issueDecode_closed hl, recvOp_closed hl]
    refine Nat.sub_self s.rx.pos ▸ .of_issue hs ?_
    exact ⟨rfl, rfl, rfl, rfl, rfl, rfl, rfl, rfl, fun _ _ => rfl, rfl, rfl, fun i hi => absurd hi (Nat.not_lt_zero i),
      rfl, rfl, rfl, rfl, rfl⟩
  | true =>
    rw [issueDecode_open hl]
    refine StartsAs.realises (.done _) ?_ (Nat.zero_add _).symm
    exact
      { runs := ⟨hin, rfl, he, by simp⟩, start := rfl, cnt := rfl, busy := hb, open_ := hl, seq := rfl, linkOpen := rfl
        tx := rfl, rx := rfl, status := rfl, opr := rfl, flen := rfl, fbuf := fun _ _ => rfl, env := rfl, inputs := rfl
        observed := rfl, hostFault := rfl }

/-- Every code of `OP`. -/
theorem realises (op : BitVec 3) {t : State} (h : exec (decodeOp op) s = .next t) :
    Realises (serialSteps (decodeOp op) s t) (issueSerial op s) t := by
  have hb := (idle_iff.mp hs).1
  rcases op_cases op with rfl | rfl | rfl | rfl | rfl | rfl | rfl | rfl
  · cases h.symm.trans (whenIdle_idle hb)
    exact .of_issue hs (.refl _)
  · cases h.symm.trans (whenIdle_idle hb)
    exact .of_issue (idle_of_between (.connectOp .refl) hs) (.refl _)
  · cases h.symm.trans (whenIdle_idle hb)
    exact .of_issue hs (.refl _)
  · cases h.symm.trans (whenIdle_idle hb)
    exact realises_enc hin hs
  · cases h.symm.trans (whenIdle_idle hb)
    exact realises_send hin hs
  · cases h.symm.trans (whenIdle_idle hb)
    exact realises_recv hin hs
  · cases h.symm.trans (whenIdle_idle hb)
    exact realises_xfer hin hs
  · cases h.symm.trans (whenIdle_idle hb)
    exact .of_issue hs (.refl _)

end Operations

/-! ## Presented to the block -/

theorem step_of_run_one {M : Host.Core} {s t : M.State} (h : M.run 1 s = .next t) : M.step s = .next t := by
  rw [Host.Core.run] at h
  cases hs : M.step s with
  | next u => rw [hs] at h; exact h
  | fault r => rw [hs] at h; cases h
  | refused r => rw [hs] at h; cases h

/-- A code of `OP` presented to an idle block runs its operation whole. -/
theorem step_present_op {s : State} (hb : s.busy = false) (op : BitVec 3) :
    step { s with inputs := [.present ⟨.op, [op.setWidth 8]⟩] } =
      exec (decodeOp op) (setOp op { s with inputs := [] }) := by
  obtain ⟨hdecode, hcode⟩ : decodeWord ⟨.op, [op.setWidth 8]⟩ = .ok (decodeOp op) ∧ encodeOp (decodeOp op) = op := by
    revert op
    decide
  rw [step_of_present rfl, presentStep, hdecode]
  dsimp only
  rw [latchOp, if_pos ⟨rfl, hb⟩, hcode]
  rfl

/-- The same code presented to the byte-serial realisation is issued there. -/
theorem step_presentSerial {s : State} (hb : s.busy = false) (op : BitVec 3) :
    step { s with inputs := [.presentSerial op] } = .next (issueSerial op (setOp op { s with inputs := [] })) :=
  (step_of_presentSerial rfl).trans (presentSerialStep_idle op hb)

/-- After its issue the byte-serial realisation realises what the whole operation has left. -/
theorem realises_of_run {op : BitVec 3} {s t : State} (hs : s.idle = true)
    (h : Host.Core.run core 1 { s with inputs := [.present ⟨.op, [op.setWidth 8]⟩] } = .next t) :
    Realises (serialSteps (decodeOp op) s t) (issueSerial op (setOp op { s with inputs := [] })) t := by
  have hb := (idle_iff.mp hs).1
  have hexec : exec (decodeOp op) (setOp op { s with inputs := [] }) = .next t :=
    (step_present_op hb op).symm.trans (step_of_run_one h)
  exact realises (s := setOp op { s with inputs := [] }) rfl hs op hexec

/-- Settles O55: the issue is one step, and the machines then run to the end of the operation. -/
theorem serialRealisationAgrees : Obligations.SerialRealisationAgrees := by
  unfold Obligations.SerialRealisationAgrees
  intro op s t hs hrun hb start n
  obtain ⟨u, hbusy, hidle, hagree⟩ := (realises_of_run hs hrun).ends hb
  obtain ⟨hend, hbefore⟩ := hbusy.run
  have hissue (k : Nat) : Host.Core.run core (1 + k) start =
      Host.Core.run core k (issueSerial op (setOp op { s with inputs := [] })) := by
    rw [Nat.add_comm]
    exact run_succ_of_step (step_presentSerial (idle_iff.mp hs).1 op)
  refine ⟨⟨u, (hissue n).trans hend, hidle, hagree⟩, fun k hk => ?_⟩
  obtain ⟨v, hv, hvb⟩ := hbefore k hk
  exact ⟨v, (hissue k).trans hv, hvb⟩

/-- Settles O56: the issue is one step, and the machines then run to the item that never comes. -/
theorem serialRealisationHangsWhereWholeOneDoes : Obligations.SerialRealisationHangsWhereWholeOneDoes := by
  unfold Obligations.SerialRealisationHangsWhereWholeOneDoes
  intro op s t hs hrun hb
  obtain ⟨n, u, hbusy, hwaits⟩ := (realises_of_run hs hrun).hangs hb
  have hissue : Host.Core.run core (n + 1) { s with inputs := [.presentSerial op] } = .next u :=
    (run_succ_of_step (step_presentSerial (idle_iff.mp hs).1 op)).trans hbusy.run.1
  exact ⟨n + 1, u, hissue, hwaits.busy, (step_of_no_input hwaits.inputs hwaits.busy).trans hwaits.never, hwaits.tx,
    hwaits.seq, hwaits.status, hwaits.pos, hwaits.state⟩

end Sys2Proof.Machine
